-- ==== Sys2Proof/Word.lean ====
section
/-! DEFINITION. The plain words of the codec block: bytes, durations, repeat counts, levels and the
22-byte packet store (00_scope.md rules R8, R13, R15; 20_memory.md rule R60). -/

namespace Sys2Proof

/-- One byte of a frame or of a 22-byte store. -/
abbrev Byte := BitVec 8

/-- A duration in microseconds: `W_DUR` = 32 bits, unsigned (R8, R15). -/
abbrev Duration := BitVec 32

/-- The repeat counter's word: `W_REP` = 32 bits, unsigned (R8). -/
abbrev RepCount := BitVec 32

/-- A logical level: `false` = low (0), `true` = high (1) (R15). -/
abbrev Level := Bool

/-- A 22-byte store (`NBYTES` = 22, R8): `DBUF`, `PBUF`, `E_BUF`, or a `key` operand. -/
abbrev Packet := Vector Byte 22

/-- 22 zero bytes. -/
abbrev Packet.zero : Packet := Vector.replicate 22 0#8

end Sys2Proof
end

