-- ==== Sys2Proof/Syntax.lean ====
section
/-! DEFINITION. The data types of operands and the 16 operations of 30_encoding.md rule R92,
one constructor of `Instr` per row of spec/opcode_table.json. -/

namespace Sys2Proof

/-- The four line-code symbols (R15, R95): short or long, low or high. -/
inductive Kind where
  | sl   -- short low
  | sh   -- short high
  | ll   -- long low
  | lh   -- long high
deriving DecidableEq, Repr, Inhabited

/-- A Symbol or an Edge: a level held for a duration (R15, R96). -/
structure Symbol where
  level    : Level
  duration : Duration
deriving DecidableEq, Repr, Inhabited

/-- The Manchester decoder's carry-over `mds` (R26, R143): is a first half pending, and its level. -/
structure MdState where
  pend : Bool
  lvl  : Level
deriving DecidableEq, Repr, Inhabited

/-- The Manchester encoder's `step` (R39, R151): its four 2-bit codes 0, 1, 2 and the corrupt 3. -/
inductive MeStep where
  | start      -- 0: nothing emitted yet
  | halfOut    -- 1: the first half of cell `prev` is out
  | cellOut    -- 2: the pending cell is complete, the new one has nothing out
  | corrupt    -- 3: the corrupted internal state machine
deriving DecidableEq, Repr, Inhabited

/-- The Manchester encoder's carry-over `mes` (R39, R151). -/
structure MeState where
  step : MeStep
  prev : Bool
deriving DecidableEq, Repr, Inhabited

/-- What a Manchester decoder advance resolves (R145). -/
inductive MdRes where
  | nothing            -- NONE: a first half was consumed
  | violation          -- VIOLATION: not Manchester code
  | bit (b : Bool)     -- BIT0, BIT1: a cell was resolved
deriving DecidableEq, Repr, Inhabited

/-- The source of PKT_PARSE (R207): the decoder's buffer (`src = 0`) or 22 operand bytes (`src = 1`). -/
inductive PktSrc where
  | dec
  | buf (key : Packet)
deriving DecidableEq, Repr

/-- The 16 operations (R92), each with the operands its frame carries (R91, R93). -/
inductive Instr where
  | matchDur (d n : Duration)
  | mdecReset
  | mdecAdv (mds : MdState) (kind : Kind)
  | mencReset
  | mencAdv (mes : MeState) (bit : Bool)
  | mencFinish (mes : MeState)
  | decReset
  | decFeed (level : Level) (d : Duration)
  | decSetcb (en : Bool)
  | crc8Msb (poly init : Byte) (data : List Byte)
  | crc8Lsb (poly init : Byte) (data : List Byte)
  | pktParse (src : PktSrc)
  | pktSerialize
  | encLoad (keyValid repValid : Bool) (bitCount : BitVec 16) (rep : RepCount) (key : Packet)
  | encYield
  | encStop
deriving DecidableEq, Repr

end Sys2Proof
end

