-- ==== Sys2Proof/Config.lean ====
section
/-! DEFINITION. The open parameters of one block (00_scope.md rules R7 to R10), when they are well
formed and when separated (R9), the configuration a block is created with, and the free values:
constants without a body, of which nothing can be proved. -/

namespace Sys2Proof

/-- The configuration constants of R8, R20 and R21. Raw values: an ill-formed configuration can be
written down, and the rules still compute with it (R303). -/
structure Config where
  teShort       : Duration   -- `TE_SHORT`
  teLong        : Duration   -- `TE_LONG`
  teDelta       : Duration   -- `TE_DELTA`
  repeatDefault : RepCount   -- `REPEAT_DEFAULT`
deriving DecidableEq, Repr

/-- R9: `TE_SHORT >= 2`, `TE_DELTA >= 1`, `TE_LONG = 2 * TE_SHORT` and
`4 * TE_LONG + TE_DELTA < 2^W_DUR`. -/
abbrev Config.WellFormed (c : Config) : Prop :=
  2 ≤ c.teShort.toNat ∧ 1 ≤ c.teDelta.toNat ∧ c.teLong.toNat = 2 * c.teShort.toNat ∧
    4 * c.teLong.toNat + c.teDelta.toNat < 2 ^ 32

/-- R9: no duration matches two nominals that one decoder state tries. -/
abbrev Config.Separated (c : Config) : Prop :=
  c.WellFormed ∧ 2 * c.teDelta.toNat ≤ c.teShort.toNat + 1

/-- R10, E1 (an example only; its numbers are the spec writer's memory, `93` G1). DESIGN CHOICE (log
entry 1): R10 gives E1 no `REPEAT_DEFAULT`, which D4 leaves open; 1 is the model's. -/
def Config.e1 : Config :=
  { teShort := 208#32, teLong := 416#32, teDelta := 104#32, repeatDefault := 1#32 }

/-- R10, E2 (an example only, with odd `TE_SHORT`). DESIGN CHOICE (log entry 1): R10 gives E2 no
`REPEAT_DEFAULT`, which D4 leaves open; 1 is the model's. -/
def Config.e2 : Config :=
  { teShort := 9#32, teLong := 18#32, teDelta := 3#32, repeatDefault := 1#32 }

/-- A configuration together with its well-formedness (R9, R303). -/
structure Config.Given where
  cfg : Config := Config.e2
  wf  : cfg.WellFormed := by decide
deriving Inhabited

/-- FREE VALUE (log entry 1). The configuration this block was created with (R21, R301): some
well-formed configuration, and nothing else is known of it. -/
opaque Config.given : Config.Given

/-- FREE VALUE (log entry 2). What a symbol of `E_SYM` that no load has written reads as (R37,
`93` U5): any value, a fresh one for each read. -/
opaque Config.freeSymbol : Nat → Symbol

/-- FREE VALUE (log entry 3). `E_BUF` after a contract violation inside ENC_LOAD (R276, `93` U4). -/
opaque Config.freeBuf : Nat → Packet

/-- FREE VALUE (log entry 3). `E_BITS` after a contract violation inside ENC_LOAD (R276). -/
opaque Config.freeBits : Nat → BitVec 16

/-- FREE VALUE (log entry 3). `E_REP` after a contract violation inside ENC_LOAD (R276). -/
opaque Config.freeRep : Nat → RepCount

/-- FREE VALUE (log entry 3). `E_CUR` after a contract violation inside ENC_LOAD (R276). -/
opaque Config.freeCur : Nat → BitVec 9

/-- FREE VALUE (log entry 3). `E_LEN` after a contract violation inside ENC_LOAD (R276). -/
opaque Config.freeLen : Nat → BitVec 9

/-- FREE VALUE (log entry 3). `E_SYM` after a contract violation inside ENC_LOAD (R276). -/
opaque Config.freeSyms : Nat → List Symbol

/-- FREE VALUE (log entry 3). `ME_STEP` and `ME_PREV` after a contract violation inside ENC_LOAD
(R276). -/
opaque Config.freeMes : Nat → MeState

end Sys2Proof
end

