-- ==== Sys2Proof/WellFormed.lean ====
section
/-! DEFINITION. Which instructions a frame can spell (30_encoding.md rule R93). The operand types
carry every other bound: levels and flags are one bit, durations 32 bits, keys 22 bytes. -/

namespace Sys2Proof

/-- R93: `len` is one byte, so a CRC operation carries at most 255 data bytes. -/
def crcDataOk (data : List Byte) : Bool := decide (data.length ≤ 255)

/-- An instruction whose operands fit the frame format of its row (R91, R93). -/
def Instr.wellFormed : Instr → Bool
  | .matchDur _ _ => true
  | .mdecReset => true
  | .mdecAdv _ _ => true
  | .mencReset => true
  | .mencAdv _ _ => true
  | .mencFinish _ => true
  | .decReset => true
  | .decFeed _ _ => true
  | .decSetcb _ => true
  | .crc8Msb _ _ data => crcDataOk data
  | .crc8Lsb _ _ data => crcDataOk data
  | .pktParse _ => true
  | .pktSerialize => true
  | .encLoad _ _ _ _ _ => true
  | .encYield => true
  | .encStop => true

end Sys2Proof
end

