-- ==== Sys2Proof/Decode.lean ====
section
/-! DEFINITION. Command frames (30_encoding.md rules R90 to R99): the decoder, total on any bytes and
rejecting by name; then the encoder, written from the same format tables; then the reading of one
word of spec/opcode_table.json. -/

namespace Sys2Proof

/-- Why a frame is illegal (R98). The block answers the same `ILLEGAL_OP` for each. -/
inductive DecodeError where
  | undefinedOpcode   -- byte 0 is not one of the 16 opcodes
  | wrongLength       -- shorter or longer than the format says (an empty frame among them)
  | mustBeZero        -- a nonzero must-be-zero bit
deriving DecidableEq, Repr

/-! ## Bytes and bits (R93) -/

/-- Two bytes, big-endian (R90). -/
def be16 (a b : Byte) : BitVec 16 := a ++ b

/-- Four bytes, big-endian (R90, R93). -/
def be32 (a b c d : Byte) : BitVec 32 := a ++ b ++ c ++ d

/-- The two bytes of a 16-bit value, big-endian. -/
def bytes16 (v : BitVec 16) : List Byte := [v.extractLsb' 8 8, v.extractLsb' 0 8]

/-- The four bytes of a 32-bit value, big-endian. -/
def bytes32 (v : BitVec 32) : List Byte :=
  [v.extractLsb' 24 8, v.extractLsb' 16 8, v.extractLsb' 8 8, v.extractLsb' 0 8]

/-- The eight bytes of a 64-bit value, big-endian. -/
def bytes64 (v : BitVec 64) : List Byte :=
  bytes32 (v.extractLsb' 32 32) ++ bytes32 (v.extractLsb' 0 32)

/-- One bit as a byte: 0 or 1. -/
def bitToByte (b : Bool) : Byte := if b then 1#8 else 0#8

/-- R95: the Kind code, `long ++ level`. -/
def Kind.ofBits (long level : Bool) : Kind :=
  match long, level with
  | false, false => .sl
  | false, true => .sh
  | true, false => .ll
  | true, true => .lh

/-- R95: the byte of a Kind operand or answer. -/
def Kind.toByte : Kind → Byte
  | .sl => 0b00#8
  | .sh => 0b01#8
  | .ll => 0b10#8
  | .lh => 0b11#8

/-- R93: `mds` as a byte, bit 1 = `pend`, bit 0 = `lvl`. -/
def MdState.toByte (m : MdState) : Byte :=
  (bitToByte m.pend <<< 1) ||| bitToByte m.lvl

/-- R39, R93: the 2-bit code of `step`, bit 1 first. -/
def MeStep.ofBits (hi lo : Bool) : MeStep :=
  match hi, lo with
  | false, false => .start
  | false, true => .halfOut
  | true, false => .cellOut
  | true, true => .corrupt

/-- R39: the 2-bit code of `step`. -/
def MeStep.code : MeStep → Byte
  | .start => 0#8
  | .halfOut => 1#8
  | .cellOut => 2#8
  | .corrupt => 3#8

/-- R93: `mes` as a byte, bits 2..1 = `step`, bit 0 = `prev`. -/
def MeState.toByte (m : MeState) : Byte :=
  (m.step.code <<< 1) ||| bitToByte m.prev

/-- R93: `level`, `en`, `bit`, `src`: bit 0, bits 7..1 must be 0. -/
def readBit (b : Byte) : Except DecodeError Bool :=
  if b >>> 1 = 0#8 then .ok (b.getLsbD 0) else .error .mustBeZero

/-- R93: `kind`: bits 1..0, bits 7..2 must be 0. -/
def readKind (b : Byte) : Except DecodeError Kind :=
  if b >>> 2 = 0#8 then .ok (Kind.ofBits (b.getLsbD 1) (b.getLsbD 0)) else .error .mustBeZero

/-- R93: `mds`: bit 1 = `pend`, bit 0 = `lvl`, bits 7..2 must be 0. -/
def readMds (b : Byte) : Except DecodeError MdState :=
  if b >>> 2 = 0#8 then .ok { pend := b.getLsbD 1, lvl := b.getLsbD 0 } else .error .mustBeZero

/-- R93: `mes`: bits 2..1 = `step`, bit 0 = `prev`, bits 7..3 must be 0. -/
def readMes (b : Byte) : Except DecodeError MeState :=
  if b >>> 3 = 0#8 then
    .ok { step := MeStep.ofBits (b.getLsbD 2) (b.getLsbD 1), prev := b.getLsbD 0 }
  else .error .mustBeZero

/-- R93: `key`: byte `i` of the field is buffer byte `i`; exactly 22 bytes. -/
def readKey (l : List Byte) : Except DecodeError Packet :=
  if h : l.length = 22 then .ok ⟨l.toArray, h⟩ else .error .wrongLength

/-! ## One reader per frame format (R91) -/

/-- Format `Z`: nothing after the opcode. -/
def readZ (i : Instr) : List Byte → Except DecodeError Instr
  | [] => .ok i
  | _ => .error .wrongLength

/-- Format `B`: one byte, only bit 0 used. -/
def readB (mk : Bool → Instr) : List Byte → Except DecodeError Instr
  | [b] => (readBit b).map mk
  | _ => .error .wrongLength

/-- Format `ED`: a level byte, then a duration. -/
def readED (mk : Level → Duration → Instr) : List Byte → Except DecodeError Instr
  | [l, a, b, c, d] => (readBit l).map fun lvl => mk lvl (be32 a b c d)
  | _ => .error .wrongLength

/-- Format `DD`: two durations. -/
def readDD (mk : Duration → Duration → Instr) : List Byte → Except DecodeError Instr
  | [a, b, c, d, e, f, g, h] => .ok (mk (be32 a b c d) (be32 e f g h))
  | _ => .error .wrongLength

/-- Format `SK` of MDEC_ADV: a decoder state byte and a Kind byte. -/
def readMdecAdv : List Byte → Except DecodeError Instr
  | [s, k] => (readMds s).bind fun m => (readKind k).map fun kind => .mdecAdv m kind
  | _ => .error .wrongLength

/-- Format `SK` of MENC_ADV: an encoder state byte and a bit byte. -/
def readMencAdv : List Byte → Except DecodeError Instr
  | [s, b] => (readMes s).bind fun m => (readBit b).map fun bit => .mencAdv m bit
  | _ => .error .wrongLength

/-- Format `S`: an encoder state byte. -/
def readMencFinish : List Byte → Except DecodeError Instr
  | [s] => (readMes s).map .mencFinish
  | _ => .error .wrongLength

/-- Format `CRC`: `poly`, `init`, `len`, then `len` data bytes. -/
def readCrc (mk : Byte → Byte → List Byte → Instr) : List Byte → Except DecodeError Instr
  | poly :: init :: len :: data =>
    if data.length = len.toNat then .ok (mk poly init data) else .error .wrongLength
  | _ => .error .wrongLength

/-- Format `P`: a `src` byte; when `src = 1`, 22 key bytes follow. -/
def readPktParse : List Byte → Except DecodeError Instr
  | s :: rest => (readBit s).bind fun src =>
    if src then (readKey rest).map fun key => .pktParse (.buf key)
    else readZ (.pktParse .dec) rest
  | _ => .error .wrongLength

/-- Format `L`: a flags byte (bit 0 `key_valid`, bit 1 `rep_valid`), a 16-bit bit count, a 32-bit
repeat count, 22 key bytes. -/
def readEncLoad : List Byte → Except DecodeError Instr
  | fl :: b1 :: b0 :: r3 :: r2 :: r1 :: r0 :: rest =>
    if fl >>> 2 = 0#8 then
      (readKey rest).map fun key =>
        .encLoad (fl.getLsbD 0) (fl.getLsbD 1) (be16 b1 b0) (be32 r3 r2 r1 r0) key
    else .error .mustBeZero
  | _ => .error .wrongLength

/-- The operand bytes after the opcode `op` (R92). -/
def decodeOp (op : Byte) (rest : List Byte) : Except DecodeError Instr :=
  if op = 0x10#8 then readDD .matchDur rest
  else if op = 0x20#8 then readZ .mdecReset rest
  else if op = 0x21#8 then readMdecAdv rest
  else if op = 0x24#8 then readZ .mencReset rest
  else if op = 0x25#8 then readMencAdv rest
  else if op = 0x26#8 then readMencFinish rest
  else if op = 0x30#8 then readZ .decReset rest
  else if op = 0x31#8 then readED .decFeed rest
  else if op = 0x32#8 then readB .decSetcb rest
  else if op = 0x40#8 then readCrc .crc8Msb rest
  else if op = 0x41#8 then readCrc .crc8Lsb rest
  else if op = 0x42#8 then readPktParse rest
  else if op = 0x43#8 then readZ .pktSerialize rest
  else if op = 0x50#8 then readEncLoad rest
  else if op = 0x51#8 then readZ .encYield rest
  else if op = 0x52#8 then readZ .encStop rest
  else .error .undefinedOpcode

/-- R98, R99: the operation a command frame spells, or why it spells none. -/
def decode : List Byte → Except DecodeError Instr
  | [] => .error .wrongLength
  | op :: rest => decodeOp op rest

/-! ## The encoder -/

/-- R92: the opcode byte of a row. -/
def Instr.opcode : Instr → Byte
  | .matchDur _ _ => 0x10#8
  | .mdecReset => 0x20#8
  | .mdecAdv _ _ => 0x21#8
  | .mencReset => 0x24#8
  | .mencAdv _ _ => 0x25#8
  | .mencFinish _ => 0x26#8
  | .decReset => 0x30#8
  | .decFeed _ _ => 0x31#8
  | .decSetcb _ => 0x32#8
  | .crc8Msb _ _ _ => 0x40#8
  | .crc8Lsb _ _ _ => 0x41#8
  | .pktParse _ => 0x42#8
  | .pktSerialize => 0x43#8
  | .encLoad _ _ _ _ _ => 0x50#8
  | .encYield => 0x51#8
  | .encStop => 0x52#8

/-- R91, R93: the operand bytes of an instruction, in frame order. -/
def Instr.operandBytes : Instr → List Byte
  | .matchDur d n => bytes32 d ++ bytes32 n
  | .mdecReset => []
  | .mdecAdv mds kind => [mds.toByte, kind.toByte]
  | .mencReset => []
  | .mencAdv mes bit => [mes.toByte, bitToByte bit]
  | .mencFinish mes => [mes.toByte]
  | .decReset => []
  | .decFeed level d => bitToByte level :: bytes32 d
  | .decSetcb en => [bitToByte en]
  | .crc8Msb poly init data => poly :: init :: BitVec.ofNat 8 data.length :: data
  | .crc8Lsb poly init data => poly :: init :: BitVec.ofNat 8 data.length :: data
  | .pktParse .dec => [0#8]
  | .pktParse (.buf key) => 1#8 :: key.toList
  | .pktSerialize => []
  | .encLoad kv rv bits rep key =>
    (bitToByte kv ||| (bitToByte rv <<< 1)) :: (bytes16 bits ++ bytes32 rep ++ key.toList)
  | .encYield => []
  | .encStop => []

/-- The command frame of an instruction (R90). -/
def encode (i : Instr) : List Byte := i.opcode :: i.operandBytes

/-! ## Words of the operation table -/

/-- R91, R99: the length of the frame that starts with opcode `b0`, where `b1` and `b3` are its
bytes 1 and 3 (the `src` byte of format `P`, the `len` byte of format `CRC`). -/
def frameLength (b0 b1 b3 : Byte) : Nat :=
  if b0 = 0x10#8 then 9
  else if b0 = 0x21#8 ∨ b0 = 0x25#8 then 3
  else if b0 = 0x26#8 ∨ b0 = 0x32#8 then 2
  else if b0 = 0x31#8 then 6
  else if b0 = 0x40#8 ∨ b0 = 0x41#8 then 4 + b3.toNat
  else if b0 = 0x42#8 then (if b1.getLsbD 0 then 24 else 2)
  else if b0 = 0x50#8 then 30
  else 1

/-- Byte `j` of a word numbered as spec/opcode_table.json numbers it: bit 0 is the least significant
bit of byte 0. -/
def wordByte (w j : Nat) : Byte := BitVec.ofNat 8 (w >>> (8 * j))

/-- The command frame of a word of `nbits` bits: its own bytes, then zero bytes up to the length its
opcode fixes. -/
def tableFrame (nbits w : Nat) : List Byte :=
  let v := w % 2 ^ nbits
  let len := max ((nbits + 7) / 8) (frameLength (wordByte v 0) (wordByte v 1) (wordByte v 3))
  (List.range len).map (wordByte v)

/-- The instruction the decoder reads from a word of spec/opcode_table.json, or none. -/
def decodeTableWord (nbits w : Nat) : Option Instr :=
  match decode (tableFrame nbits w) with
  | .ok i => some i
  | .error _ => none

end Sys2Proof
end

