-- ==== Sys2Proof/Machine/State.lean ====
section
/-! DEFINITION. The complete state of one block instance (10_state.md rule R20), component by
component, with the command port's own fields, and the state after hardware reset (R43, R300). -/

namespace Sys2Proof.Machine

/-- The decoder's sequencer `DSTATE` (R23). Codes 6 and 7 are never written (`93` U13). -/
inductive DState where
  | rst    -- 0: Reset
  | pas    -- 1: PreambleAlternatingShort
  | phvl   -- 2: PreambleHighVeryLong
  | pal    -- 3: PreambleAlternatingLong
  | fd     -- 4: FoundData
  | cpl    -- 5: Terminal/Complete
deriving DecidableEq, Repr

/-- Decoder state (R23 to R28). -/
structure DecState where
  dstate : DState      -- `DSTATE`
  dcnt   : BitVec 8    -- `DCNT`
  dbuf   : Packet      -- `DBUF`
  mdPend : Bool        -- `MD_PEND`
  mdLvl  : Level       -- `MD_LVL`
  cbEn   : Bool        -- `CB_EN`
deriving DecidableEq, Repr

/-- Parser state (R29 to R32). -/
structure PrsState where
  pbuf    : Packet      -- `PBUF`
  pType   : Byte        -- `P_TYPE`
  pSerial : BitVec 32   -- `P_SERIAL`
  pData1  : BitVec 64   -- `P_DATA1`
  pData2  : BitVec 64   -- `P_DATA2`
  pCrc    : Byte        -- `P_CRC`
  pCalc   : Byte        -- `P_CALC`
  pKnown  : Bool        -- `P_KNOWN`
  pOk     : Bool        -- `P_OK`
  pValid  : Bool        -- `P_VALID`
deriving DecidableEq, Repr

/-- Encoder state (R33 to R40). `E_SYM` is the list of its meaningful entries, an exact model (R37). -/
structure EncState where
  eBuf    : Packet        -- `E_BUF`
  eBits   : BitVec 16     -- `E_BITS`
  eRep    : RepCount      -- `E_REP`
  eCur    : BitVec 9      -- `E_CUR`
  eLen    : BitVec 9      -- `E_LEN`
  eSym    : List Symbol   -- `E_SYM[0 .. E_LEN-1]`
  eActive : Bool          -- `E_ACTIVE`
  meStep  : MeStep        -- `ME_STEP`
  mePrev  : Bool          -- `ME_PREV`
  eFault  : Bool          -- `E_FAULT`
deriving DecidableEq, Repr

/-- The command port and the notification line (R90). MODEL'S OWN FIELDS (log entry 4): the frames
the outside agents have sent and the block has not yet taken, and what the last step put out. -/
structure PortState where
  inq      : List (List Byte)   -- command frames not yet taken, the next one first
  resp     : List Byte          -- the response frame of the last step, empty when it had none
  pktReady : Bool               -- did `pkt_ready` pulse in the last step (R281)
deriving DecidableEq, Repr

/-- The state of one block instance (R20). `freeTick` is the MODEL'S OWN (log entry 2): how many
free values have been used. -/
structure State where
  cfg      : Config
  dec      : DecState
  prs      : PrsState
  enc      : EncState
  port     : PortState
  freeTick : Nat
deriving DecidableEq, Repr

/-- Why a step stops. Each is an access to a place that does not exist, and no state that meets the
invariant of Safety.lean reaches one. -/
inductive Fault where
  /-- Raised by DEC_FEED, when `BufAppend` is asked for bit 176 or above of `DBUF` (R63: it is
  defined only when `DCNT <= 175`). Safe: the model stops where the spec defines nothing. -/
  | bufAppendRange
  /-- Raised by ENC_YIELD, when `E_CUR` names a symbol beyond the 398 cells of `E_SYM` (R60, R65).
  Safe: the model stops where the spec defines nothing. -/
  | symbolRange
deriving DecidableEq, Repr

/-- Why an instruction is turned away. -/
inductive Refusal where
  /-- Raised by an arm of `exec` for an instruction that has no meaning yet. No arm does. Safe. -/
  | notModelled (mnemonic : String)
deriving DecidableEq, Repr

/-- Decoder reset values (R20, R43). -/
def DecState.reset : DecState :=
  { dstate := .rst, dcnt := 0#8, dbuf := Packet.zero, mdPend := false, mdLvl := false, cbEn := false }

/-- Parser reset values (R20, R43). -/
def PrsState.reset : PrsState :=
  { pbuf := Packet.zero, pType := 0#8, pSerial := 0#32, pData1 := 0#64, pData2 := 0#64, pCrc := 0#8,
    pCalc := 0#8, pKnown := false, pOk := false, pValid := false }

/-- Encoder reset values (R20, R43). `E_LEN` = 0, so no entry of `E_SYM` is meaningful (R37). -/
def EncState.reset : EncState :=
  { eBuf := Packet.zero, eBits := 0#16, eRep := 0#32, eCur := 0#9, eLen := 0#9, eSym := [],
    eActive := false, meStep := .start, mePrev := false, eFault := false }

/-- The port before any frame (log entry 4). -/
def PortState.reset : PortState := { inq := [], resp := [], pktReady := false }

/-- R300: the machine right after hardware reset, created with the configuration `c` (R301: reset
does not choose it). -/
def State.resetWith (c : Config) : State :=
  { cfg := c, dec := .reset, prs := .reset, enc := .reset, port := .reset, freeTick := 0 }

/-- R43, R300: the machine right after reset, with the configuration this block was given (log
entry 1). -/
def State.reset : State := State.resetWith Config.given.cfg

end Sys2Proof.Machine
end

