-- ==== Sys2Proof/Machine/Operands.lean ====
section
/-! DEFINITION. The operand forms of the block and the layouts of its answers (30_encoding.md rules
R93 to R96): kinds, statuses, and the bytes that follow the status byte of a response frame. -/

namespace Sys2Proof.Machine

/-! ## Kinds (R95) -/

/-- R95: `IsLong(k) = k[1]`. -/
def isLong : Kind → Bool
  | .sl => false
  | .sh => false
  | .ll => true
  | .lh => true

/-- R95: `LevelOf(k) = k[0]`. -/
def levelOf : Kind → Level
  | .sl => false
  | .sh => true
  | .ll => false
  | .lh => true

/-- R159: `Short(low) = SL`, `Short(high) = SH`. -/
def shortKind (level : Level) : Kind := if level then .sh else .sl

/-- R159: `Long(low) = LL`, `Long(high) = LH`. -/
def longKind (level : Level) : Kind := if level then .lh else .ll

/-- R93: the Manchester decoder state an operand stands for: `pend = 0` with `lvl = 1` is read as
`pend = 0, lvl = 0`. -/
def readMdsOperand (m : MdState) : MdState := if m.pend then m else { pend := false, lvl := false }

/-! ## Status bytes (R94) -/

/-- The six statuses of a response frame (R94). -/
inductive Status where
  | ok
  | bitCountMismatch
  | missingKey
  | notReady
  | illegalOp
  | contractViolation
deriving DecidableEq, Repr

/-- R94: the status byte. -/
def statusByte : Status → Byte
  | .ok => 0x00#8
  | .bitCountMismatch => 0x01#8
  | .missingKey => 0x02#8
  | .notReady => 0x03#8
  | .illegalOp => 0x04#8
  | .contractViolation => 0x05#8

/-! ## Answer layouts (R94): the bytes after the status byte -/

/-- R94: the code of `res`: 0 NONE, 1 VIOLATION, 2 BIT0, 3 BIT1. -/
def resByte : MdRes → Byte
  | .nothing => 0#8
  | .violation => 1#8
  | .bit false => 2#8
  | .bit true => 3#8

/-- MDEC_ADV: `mds'`, then `res`. -/
def mdecAdvAnswer (a : MdState × MdRes) : List Byte := [a.1.toByte, resByte a.2]

/-- MENC_ADV: `mes'`, `adv`, `kind`. -/
def mencAdvAnswer (a : MeState × Bool × Kind) : List Byte :=
  [a.1.toByte, bitToByte a.2.1, a.2.2.toByte]

/-- MENC_FINISH: `mes'`, `kind`. -/
def mencFinishAnswer (a : MeState × Kind) : List Byte := [a.1.toByte, a.2.toByte]

/-- ENC_YIELD with a symbol: `valid` = 1, `level`, `duration`. -/
def symbolAnswer (y : Symbol) : List Byte := 1#8 :: bitToByte y.level :: bytes32 y.duration

/-- ENC_YIELD's sentinel: `valid` = 0, then `level` and `duration` 0. -/
def sentinelAnswer : List Byte := 0#8 :: 0#8 :: bytes32 0#32

/-- PKT_SERIALIZE: `Bit` = 176 on two bytes, then the 22 bytes of `Key`. -/
def serializeAnswer (key : Packet) : List Byte := bytes16 176#16 ++ key.toList

/-- The flags byte of PKT_PARSE's answer: bit 1 = `P_KNOWN`, bit 0 = `P_OK`. -/
def parseFlagsByte (known ok : Bool) : Byte := (bitToByte known <<< 1) ||| bitToByte ok

/-- PKT_PARSE: `type`, `serial`, `data_primary`, `data_secondary`, `crc`, `calc`, flags. -/
def parseAnswer (p : PrsState) : List Byte :=
  [p.pType] ++ bytes32 p.pSerial ++ bytes64 p.pData1 ++ bytes64 p.pData2 ++
    [p.pCrc, p.pCalc, parseFlagsByte p.pKnown p.pOk]

end Sys2Proof.Machine
end

