-- ==== Sys2Proof/Machine/Ops.lean ====
section
/-! DEFINITION. The named operations over the stores and the port (20_memory.md rules R62 to R66;
42_decoder_fsm.md rules R171, R182; 60_exceptions.md rules R276, R279, R281): every read and write
of a store, the decoder reset, the notification, the contract violation, fetch and answer. -/

namespace Sys2Proof.Machine

/-! ## The stores -/

/-- R62: `BufBit(B, k)`: bit `7 - (k mod 8)` of byte `B[k div 8]`. -/
def bufBit (b : Packet) (k : Nat) : Bool := ((b[k / 8]?).getD 0#8).getLsbD (7 - k % 8)

/-- R63: `DBUF` with the bit `v` ORed in at bit index `k`. -/
def bufOrBit (b : Packet) (k : Nat) (v : Bool) : Packet :=
  b.setIfInBounds (k / 8) ((b[k / 8]?).getD 0#8 ||| (bitToByte v <<< (7 - k % 8)))

/-- R63: `BufAppend(v)`: defined only when `DCNT <= 175`. -/
def bufAppend (v : Bool) (x : DecState) : Option DecState :=
  if x.dcnt.toNat ≤ 175 then
    some { x with dbuf := bufOrBit x.dbuf x.dcnt.toNat v, dcnt := x.dcnt + 1#8 }
  else none

/-- R64: `BufBytesBE(B, off, n)`: start with 0 and shift in the bytes `off .. off + n - 1`. -/
def bufBytesBE (b : Packet) (off n : Nat) : BitVec (8 * n) :=
  (List.range n).foldl
    (fun v i => (v <<< 8) ||| ((b[off + i]?).getD 0#8).setWidth (8 * n)) (0#(8 * n))

/-- R65: `SymRead(i)`. A meaningful entry (`i < E_LEN`) reads as what the load wrote; any other of the
398 cells reads as a free value (`93` U5, log entry 2); beyond them there is no cell. -/
def symRead (s : State) (i : Nat) : Option (Symbol × State) :=
  if i < s.enc.eLen.toNat ∧ i < s.enc.eSym.length then
    some ((s.enc.eSym[i]?).getD default, s)
  else if i < 398 then
    some (Config.freeSymbol s.freeTick, { s with freeTick := s.freeTick + 1 })
  else none

/-! ## The decoder reset and the notification -/

/-- R171: `dec_reset()`. `CB_EN` is kept. -/
def decoderReset (x : DecState) : DecState :=
  { x with dstate := .rst, dcnt := 0#8, dbuf := Packet.zero, mdPend := false, mdLvl := false }

/-- R182, R281: the packet is complete. With a receiver registered the packet is held and `pkt_ready`
pulses (the second component); with none the decoder resets at once. -/
def packetComplete (x : DecState) : DecState × Bool :=
  let held := { x with dstate := .cpl }
  if x.cbEn then (held, true) else (decoderReset held, false)

/-! ## The contract violation -/

/-- R276: `raise ContractViolation` inside ENC_LOAD: `E_FAULT` is set, `E_ACTIVE` cleared, and every
other element of the encoder is a free value (`93` U4, log entry 3). -/
def raiseContractViolation (s : State) : State :=
  { s with
    enc :=
      { eBuf := Config.freeBuf s.freeTick, eBits := Config.freeBits s.freeTick,
        eRep := Config.freeRep s.freeTick, eCur := Config.freeCur s.freeTick,
        eLen := Config.freeLen s.freeTick, eSym := Config.freeSyms s.freeTick,
        eActive := false, meStep := (Config.freeMes s.freeTick).step,
        mePrev := (Config.freeMes s.freeTick).prev, eFault := true },
    freeTick := s.freeTick + 1 }

/-! ## The command port (R90, R94) -/

/-- The response frame of a step that does not pulse `pkt_ready`: status byte, then answer bytes. -/
def answer (st : Status) (payload : List Byte) (s : State) : State :=
  { s with port := { s.port with resp := statusByte st :: payload, pktReady := false } }

/-- The response of DEC_FEED, with the level of the notification line in this step (R90, R281). -/
def answerFeed (ready : Bool) (s : State) : State :=
  { s with port := { s.port with resp := [statusByte .ok], pktReady := ready } }

/-- R98, R279: an illegal frame: `ILLEGAL_OP`, no state change. -/
def answerIllegal (s : State) : State := answer .illegalOp [] s

/-- No frame has arrived: the block keeps its state, answers nothing and pulses nothing (R295, log
entry 4). -/
def idle (s : State) : State :=
  { s with port := { s.port with resp := [], pktReady := false } }

/-- The next command frame, and the state in which it has been taken from the port. -/
def fetch (s : State) : Option (List Byte × State) :=
  match s.port.inq with
  | [] => none
  | frame :: rest => some (frame, { s with port := { s.port with inq := rest } })

/-- The state in which `frame` is the next command frame. -/
def offerFrame (frame : List Byte) (s : State) : State :=
  { s with port := { s.port with inq := frame :: s.port.inq } }

end Sys2Proof.Machine
end

