-- ==== Sys2Proof/Machine/Classifier.lean ====
section
/-! DEFINITION. The timing classifier (40_timing_classifier.md): the predicate `matches`, the five
nominals, and the operation MATCH. -/

namespace Sys2Proof.Machine

/-- R13, R124: the exact difference of two unsigned values; it never wraps. -/
def absDiff (a b : Nat) : Nat := if a ≥ b then a - b else b - a

/-- R120: `matches(d, n)`: a strict comparison with `TE_DELTA`. -/
def durMatches (c : Config) (d n : Nat) : Bool := decide (absDiff d n < c.teDelta.toNat)

/-- R122: the nominal `TE_SHORT`. -/
def nShort (c : Config) : Nat := c.teShort.toNat

/-- R122: the nominal `TE_LONG`. -/
def nLong (c : Config) : Nat := c.teLong.toNat

/-- R122: `N_FIRSTLOW = TE_SHORT + TE_SHORT div 2`. -/
def nFirstLow (c : Config) : Nat := c.teShort.toNat + c.teShort.toNat / 2

/-- R122: `N_MARK = 4 * TE_LONG`. -/
def nMark (c : Config) : Nat := 4 * c.teLong.toNat

/-- R122: `N_TERM = TE_LONG + TE_SHORT + TE_SHORT div 2`. -/
def nTerm (c : Config) : Nat := c.teLong.toNat + c.teShort.toNat + c.teShort.toNat / 2

/-- R121: MATCH. -/
def execMatch (d n : Duration) (s : State) : Host.Outcome State Fault Refusal :=
  .next (answer .ok [bitToByte (durMatches s.cfg d.toNat n.toNat)] s)

end Sys2Proof.Machine
end

