-- ==== Sys2Proof/Machine/LineCoder.lean ====
section
/-! DEFINITION. The Manchester line coder (41_manchester.md): the pure primitives of both directions
and the five operations on them. -/

namespace Sys2Proof.Machine

/-! ## Decode direction -/

/-- R144: nothing pending. -/
def mdecStart : MdState := { pend := false, lvl := false }

/-- R145: one classified event. -/
def mdecAdvance (m : MdState) (k : Kind) : MdState × MdRes :=
  if m.pend = false then
    if isLong k = false then ({ pend := true, lvl := levelOf k }, .nothing)
    else (mdecStart, .violation)
  else if levelOf k = m.lvl then (mdecStart, .violation)
  else if isLong k = false then (mdecStart, .bit m.lvl)
  else ({ pend := true, lvl := levelOf k }, .bit m.lvl)

/-- R144: MDEC_RESET. -/
def execMdecReset (s : State) : Host.Outcome State Fault Refusal :=
  .next (answer .ok [mdecStart.toByte] s)

/-- R145: MDEC_ADV. -/
def execMdecAdv (mds : MdState) (kind : Kind) (s : State) : Host.Outcome State Fault Refusal :=
  .next (answer .ok (mdecAdvAnswer (mdecAdvance (readMdsOperand mds) kind)) s)

/-! ## Encode direction -/

/-- R141: `First(w)`: a wire bit 1 begins low, a wire bit 0 begins high. -/
def firstHalf (w : Bool) : Level := !w

/-- R141: `Second(w) = NOT First(w)`. -/
def secondHalf (w : Bool) : Level := !firstHalf w

/-- R152: nothing emitted. -/
def mencStart : MeState := { step := .start, prev := false }

/-- R153 to R156: one advance on a wire bit: the new state, `adv`, and the kind emitted; none is the
contract violation of `step = 3`. -/
def mencAdvance (m : MeState) (w : Bool) : Option (MeState × Bool × Kind) :=
  match m.step with
  | .start => some ({ step := .halfOut, prev := w }, true, shortKind (firstHalf w))
  | .halfOut =>
    if w = m.prev then
      some ({ step := .cellOut, prev := m.prev }, false, shortKind (secondHalf m.prev))
    else some ({ step := .halfOut, prev := w }, true, longKind (secondHalf m.prev))
  | .cellOut => some ({ step := .halfOut, prev := w }, true, shortKind (firstHalf w))
  | .corrupt => none

/-- R156, R157: the terminal flush; none is the contract violation of `step = 3`. -/
def mencFlush (m : MeState) : Option (MeState × Kind) :=
  match m.step with
  | .start => some ({ step := .start, prev := m.prev }, shortKind (secondHalf m.prev))
  | .halfOut => some ({ step := .start, prev := m.prev }, shortKind (secondHalf m.prev))
  | .cellOut => some ({ step := .start, prev := m.prev }, shortKind (secondHalf m.prev))
  | .corrupt => none

/-- R158: the caller's protocol for one wire bit: advance, and advance again with the same bit where
`adv = 0`. The kinds are in emission order. -/
def mencBit (m : MeState) (w : Bool) : Option (MeState × List Kind) :=
  match mencAdvance m w with
  | none => none
  | some (m1, true, k) => some (m1, [k])
  | some (m1, false, k) =>
    match mencAdvance m1 w with
    | none => none
    | some (m2, _, k2) => some (m2, [k, k2])

/-- R158: the caller's protocol for wire bits in order. -/
def mencBits : MeState → List Bool → Option (MeState × List Kind)
  | m, [] => some (m, [])
  | m, w :: ws =>
    match mencBit m w with
    | none => none
    | some (m1, ks) =>
      match mencBits m1 ws with
      | none => none
      | some (m2, rest) => some (m2, ks ++ rest)

/-- R152: MENC_RESET. -/
def execMencReset (s : State) : Host.Outcome State Fault Refusal :=
  .next (answer .ok [mencStart.toByte] s)

/-- R153 to R156: MENC_ADV. -/
def execMencAdv (mes : MeState) (bit : Bool) (s : State) : Host.Outcome State Fault Refusal :=
  match mencAdvance mes bit with
  | some a => .next (answer .ok (mencAdvAnswer a) s)
  | none => .next (answer .contractViolation [] s)

/-- R156, R157: MENC_FINISH. -/
def execMencFinish (mes : MeState) (s : State) : Host.Outcome State Fault Refusal :=
  match mencFlush mes with
  | some a => .next (answer .ok (mencFinishAnswer a) s)
  | none => .next (answer .contractViolation [] s)

end Sys2Proof.Machine
end

