-- ==== Sys2Proof/Machine/Decoder.lean ====
section
/-! DEFINITION. The RF decoder state machine (42_decoder_fsm.md): DEC_RESET, DEC_SETCB and DEC_FEED,
the last with one definition per rule. -/

namespace Sys2Proof.Machine

/-- R175: DEC_FEED in `RST`. -/
def feedRst (c : Config) (level : Level) (d : Nat) (x : DecState) : DecState :=
  if level = false ∧ durMatches c d (nFirstLow c) then { x with dstate := .pas } else x

/-- R176: DEC_FEED in `PAS`. -/
def feedPas (c : Config) (level : Level) (d : Nat) (x : DecState) : DecState :=
  if level = true ∧ durMatches c d (nMark c) then { x with dstate := .phvl }
  else if durMatches c d (nShort c) then x
  else decoderReset x

/-- R177: DEC_FEED in `PHVL`. -/
def feedPhvl (c : Config) (level : Level) (d : Nat) (x : DecState) : DecState :=
  if level = false ∧ durMatches c d (nLong c) then { x with dstate := .pal }
  else decoderReset x

/-- R148: the priming event: MDEC_RESET, then MDEC_ADV with `SL`. -/
def primed : MdState := (mdecAdvance mdecStart .sl).1

/-- R178: DEC_FEED in `PAL`. -/
def feedPal (c : Config) (level : Level) (d : Nat) (x : DecState) : DecState :=
  if level = false ∧ durMatches c d (nShort c) then
    { x with dstate := .fd, mdPend := primed.pend, mdLvl := primed.lvl }
  else if durMatches c d (nLong c) then x
  else decoderReset x

/-- R179: the kind of an edge in `FD`, or none when no window matches. The `N_TERM` window is open
only when 175 bits have been accumulated. -/
def classifyData (c : Config) (dcnt : BitVec 8) (level : Level) (d : Nat) : Option Kind :=
  if durMatches c d (nShort c) ∨ (dcnt = 175#8 ∧ durMatches c d (nTerm c)) then
    some (shortKind level)
  else if durMatches c d (nLong c) then some (longKind level)
  else none

/-- R181, R182: append a resolved bit, and complete the packet at 176. None: there is no such bit of
`DBUF` (R63). The second component is the `pkt_ready` pulse. -/
def feedBit (b : Bool) (x : DecState) : Option (DecState × Bool) :=
  match bufAppend b x with
  | none => none
  | some y => if y.dcnt = 176#8 then some (packetComplete y) else some (y, false)

/-- R180: hand a classified event to the line coder. -/
def feedKind (k : Kind) (x : DecState) : Option (DecState × Bool) :=
  match mdecAdvance { pend := x.mdPend, lvl := x.mdLvl } k with
  | (_, .violation) => some (decoderReset x, false)
  | (m, .nothing) => some ({ x with mdPend := m.pend, mdLvl := m.lvl }, false)
  | (m, .bit b) => feedBit b { x with mdPend := m.pend, mdLvl := m.lvl }

/-- R179 to R182: DEC_FEED in `FD`. -/
def feedFd (c : Config) (level : Level) (d : Nat) (x : DecState) : Option (DecState × Bool) :=
  match classifyData c x.dcnt level d with
  | none => some (decoderReset x, false)
  | some k => feedKind k x

/-- R174: DEC_FEED on the decoder's own state, by `DSTATE`; in `CPL` the edge is ignored (R183). The
second component is the `pkt_ready` pulse. -/
def feedEdge (c : Config) (level : Level) (d : Nat) (x : DecState) : Option (DecState × Bool) :=
  match x.dstate with
  | .rst => some (feedRst c level d x, false)
  | .pas => some (feedPas c level d x, false)
  | .phvl => some (feedPhvl c level d x, false)
  | .pal => some (feedPal c level d x, false)
  | .fd => feedFd c level d x
  | .cpl => some (x, false)

/-- R173: DEC_RESET. -/
def execDecReset (s : State) : Host.Outcome State Fault Refusal :=
  .next (answer .ok [] { s with dec := decoderReset s.dec })

/-- R174 to R183: DEC_FEED. -/
def execDecFeed (level : Level) (d : Duration) (s : State) : Host.Outcome State Fault Refusal :=
  match feedEdge s.cfg level d.toNat s.dec with
  | some (x, ready) => .next (answerFeed ready { s with dec := x })
  | none => .fault .bufAppendRange

/-- R172: DEC_SETCB. -/
def execDecSetcb (en : Bool) (s : State) : Host.Outcome State Fault Refusal :=
  .next (answer .ok [] { s with dec := { s.dec with cbEn := en } })

end Sys2Proof.Machine
end

