-- ==== Sys2Proof/Machine/Crc.lean ====
section
/-! DEFINITION. The two shift-register CRCs (43_parser_crc.md rules R200 to R204) and the operations
CRC8_MSB and CRC8_LSB. -/

namespace Sys2Proof.Machine

/-- R201: one shift of the most-significant-bit-first register. -/
def crcShiftMsb (poly rem : Byte) : Byte :=
  if rem.getLsbD 7 then (rem <<< 1) ^^^ poly else rem <<< 1

/-- R201: one data byte clocked through the register. -/
def crcByteMsb (poly rem b : Byte) : Byte := (crcShiftMsb poly)^[8] (rem ^^^ b)

/-- R201: CRC8_MSB as a function. -/
def crc8MsbOf (poly init : Byte) (data : List Byte) : Byte := data.foldl (crcByteMsb poly) init

/-- R13: `rev8(v)[i] = v[7-i]`. -/
def rev8 (v : Byte) : Byte := v.reverse

/-- R202: one shift of the least-significant-bit-first register; `p` is the reversed polynomial. -/
def crcShiftLsb (p rem : Byte) : Byte :=
  if rem.getLsbD 0 then (rem >>> 1) ^^^ p else rem >>> 1

/-- R202: one data byte clocked through the register. -/
def crcByteLsb (p rem b : Byte) : Byte := (crcShiftLsb p)^[8] (rem ^^^ b)

/-- R202: CRC8_LSB as a function: `poly` and `init` are bit-reversed, the result is not. -/
def crc8LsbOf (poly init : Byte) (data : List Byte) : Byte :=
  data.foldl (crcByteLsb (rev8 poly)) (rev8 init)

/-- R203: `CrcA(B)`: CRC8_MSB(0x07, 0x00) over bytes 1..20, NOT, XOR 0x55. -/
def crcA (b : Packet) : Byte :=
  ~~~(crc8MsbOf 0x07#8 0x00#8 ((b.toList.drop 1).take 20)) ^^^ 0x55#8

/-- R204: `CrcB(B)`: CRC8_LSB(0x07, 0xFF) over bytes 0..20. -/
def crcB (b : Packet) : Byte := crc8LsbOf 0x07#8 0xFF#8 (b.toList.take 21)

/-- R201: CRC8_MSB. -/
def execCrc8Msb (poly init : Byte) (data : List Byte) (s : State) :
    Host.Outcome State Fault Refusal :=
  .next (answer .ok [crc8MsbOf poly init data] s)

/-- R202: CRC8_LSB. -/
def execCrc8Lsb (poly init : Byte) (data : List Byte) (s : State) :
    Host.Outcome State Fault Refusal :=
  .next (answer .ok [crc8LsbOf poly init data] s)

end Sys2Proof.Machine
end

