-- ==== Sys2Proof/Machine/Flags.lean ====
section
/-! DEFINITION. The flag computations: the parser's status (10_state.md rule R31; 43_parser_crc.md
rules R205, R206, R211) and the encoder's idle condition (44_encoder.md rule R244). -/

namespace Sys2Proof.Machine

/-- What the CRC selector answers (R206). -/
structure CrcVerdict where
  known : Bool
  value : Byte
  ok    : Bool
deriving DecidableEq, Repr

/-- R206: `known`: is the type byte 0x50 or 0x70. -/
def typeKnown (t : Byte) : Bool := t == 0x50#8 || t == 0x70#8

/-- R206: the CRC computed for the type, 0x00 for an unknown one. -/
def crcCalc (b : Packet) : Byte :=
  if b[0] = 0x50#8 then crcA b else if b[0] = 0x70#8 then crcB b else 0x00#8

/-- R206: the selector, `(known, calc, ok)` (`value` is `calc`) of a 22-byte buffer. -/
def crcSelect (b : Packet) : CrcVerdict :=
  { known := typeKnown b[0], value := crcCalc b, ok := typeKnown b[0] && crcCalc b == b[21] }

/-- R211: the three outcomes a caller must tell apart. -/
inductive CrcStatus where
  | ok             -- (1, 1)
  | wrong          -- (1, 0)
  | unverifiable   -- (0, 0): unknown type
deriving DecidableEq, Repr

/-- R211: the outcome from `(P_KNOWN, P_OK)`. -/
def crcStatus (p : PrsState) : CrcStatus :=
  if p.pKnown = false then .unverifiable else if p.pOk then .ok else .wrong

/-- R244: the sentinel case of ENC_YIELD: `E_REP = 0` or `E_ACTIVE = 0`. -/
def encIdle (e : EncState) : Bool := e.eRep == 0#32 || !e.eActive

end Sys2Proof.Machine
end

