-- ==== Sys2Proof/Machine/Encoder.lean ====
section
/-! DEFINITION. The RF encoder (44_encoder.md): the generated symbol sequence, ENC_LOAD, ENC_YIELD
and ENC_STOP. -/

namespace Sys2Proof.Machine

/-- A symbol of a nominal duration, on `W_DUR` bits (R96). -/
def mkSymbol (level : Level) (n : Nat) : Symbol :=
  { level := level, duration := BitVec.ofNat 32 n }

/-- R234: the 21 preamble repetitions, each a low and a high symbol. -/
def preamble (c : Config) : List Symbol :=
  (List.range 21).flatMap fun r =>
    [mkSymbol false (if r = 0 then nFirstLow c else nShort c),
     mkSymbol true (if r = 20 then nMark c else nShort c)]

/-- R235: the sync header, twice low long, high long. -/
def syncHeader (c : Config) : List Symbol :=
  [mkSymbol false (nLong c), mkSymbol true (nLong c), mkSymbol false (nLong c),
   mkSymbol true (nLong c)]

/-- R238: `KindToSymbol(k)`. -/
def kindToSymbol (c : Config) (k : Kind) : Symbol :=
  mkSymbol (levelOf k) (if isLong k then nLong c else nShort c)

/-- R236: the wire bits, the NOT of the stored bits 0 .. 175. -/
def wireBits (b : Packet) : List Bool := (List.range 176).map fun k => !bufBit b k

/-- R239: the whole generation for the packet `b`: the line-coder state it leaves, and the symbols in
the order `SymWrite` stores them. None is a contract violation of a line-coder primitive (R276). -/
def genSymbols (c : Config) (b : Packet) : Option (MeState × List Symbol) :=
  match mencBits mencStart (wireBits b) with
  | none => none
  | some (m, ks) =>
    match mencFlush m with
    | none => none
    | some (m', k) =>
      some (m', preamble c ++ syncHeader c ++ ks.map (kindToSymbol c) ++
        [mkSymbol (levelOf k) (nTerm c)])

/-- R232, R273: a structural input error: `E_ACTIVE <- 0` and nothing else. -/
def rejectLoad (st : Status) (s : State) : State :=
  answer st [] { s with enc := { s.enc with eActive := false } }

/-- R233: the encoder after a successful load. -/
def loadedJob (key : Packet) (rep : RepCount) (m : MeState) (ys : List Symbol) (e : EncState) :
    EncState :=
  { eBuf := key, eBits := 176#16, eRep := rep, eCur := 0#9, eLen := BitVec.ofNat 9 ys.length,
    eSym := ys, eActive := true, meStep := m.step, mePrev := m.prev, eFault := e.eFault }

/-- R233: copy and generation, once the checks have passed. -/
def acceptLoad (repValid : Bool) (rep : RepCount) (key : Packet) (s : State) : State :=
  match genSymbols s.cfg key with
  | some (m, ys) =>
    let n := if repValid then rep else s.cfg.repeatDefault
    answer .ok [] { s with enc := loadedJob key n m ys s.enc }
  | none => answer .contractViolation [] (raiseContractViolation s)

/-- R231 to R233, R283: ENC_LOAD. The checks in order: fault, bit count, key presence. -/
def execEncLoad (keyValid repValid : Bool) (bitCount : BitVec 16) (rep : RepCount) (key : Packet)
    (s : State) : Host.Outcome State Fault Refusal :=
  if s.enc.eFault then .next (answer .contractViolation [] s)
  else if bitCount ≠ 176#16 then .next (rejectLoad .bitCountMismatch s)
  else if keyValid = false then .next (rejectLoad .missingKey s)
  else .next (acceptLoad repValid rep key s)

/-- R245: the cursor past the symbol just read: plus one, and at `E_LEN` back to 0 with one
repetition less. -/
def advanceCursor (e : EncState) : EncState :=
  let cur := e.eCur + 1#9
  if cur = e.eLen then { e with eCur := 0#9, eRep := e.eRep - 1#32 } else { e with eCur := cur }

/-- R243 to R245, R277: ENC_YIELD. -/
def execEncYield (s : State) : Host.Outcome State Fault Refusal :=
  if s.enc.eFault then .next (answer .contractViolation [] s)
  else if encIdle s.enc then
    .next (answer .ok sentinelAnswer { s with enc := { s.enc with eActive := false } })
  else
    match symRead s s.enc.eCur.toNat with
    | some (y, t) => .next (answer .ok (symbolAnswer y) { t with enc := advanceCursor t.enc })
    | none => .fault .symbolRange

/-- R247: ENC_STOP. -/
def execEncStop (s : State) : Host.Outcome State Fault Refusal :=
  .next (answer .ok [] { s with enc := { s.enc with eActive := false } })

end Sys2Proof.Machine
end

