-- ==== Sys2Proof/Machine/Parser.lean ====
section
/-! DEFINITION. The packet parser (43_parser_crc.md rules R207 to R215): PKT_PARSE, PKT_SERIALIZE and
the values of the human-readable summary. -/

namespace Sys2Proof.Machine

/-- R210: the parser state after a successful parse of `b`; all of it is written. -/
def parsed (b : Packet) : PrsState :=
  { pbuf := b, pType := b[0], pSerial := bufBytesBE b 1 4, pData1 := bufBytesBE b 5 8,
    pData2 := bufBytesBE b 13 8, pCrc := b[21], pCalc := (crcSelect b).value,
    pKnown := (crcSelect b).known, pOk := (crcSelect b).ok, pValid := true }

/-- R210: a successful parse: the parser state, and an answer made of it. -/
def parsePacket (b : Packet) (s : State) : State :=
  answer .ok (parseAnswer (parsed b)) { s with prs := parsed b }

/-- R207 to R210: PKT_PARSE. With `src = 0` it is refused unless a packet is held (R209). -/
def execPktParse (src : PktSrc) (s : State) : Host.Outcome State Fault Refusal :=
  match src with
  | .buf key => .next (parsePacket key s)
  | .dec =>
    if s.dec.dstate = .cpl then .next (parsePacket s.dec.dbuf s) else .next (answer .notReady [] s)

/-- R214: PKT_SERIALIZE. -/
def execPktSerialize (s : State) : Host.Outcome State Fault Refusal :=
  if s.prs.pValid then .next (answer .ok (serializeAnswer s.prs.pbuf) s)
  else .next (answer .notReady [] s)

/-- R215: the hexadecimal values of the summary, each with its printed width in digits: CRC value,
`type`, `serial`, `data_primary`, `data_secondary`. Rendering is outside the block (R5). -/
def summaryValues (p : PrsState) : List (Nat × Nat) :=
  [(p.pCrc.toNat, 4), (p.pType.toNat, 8), (p.pSerial.toNat, 8), (p.pData1.toNat, 16),
    (p.pData2.toNat, 16)]

end Sys2Proof.Machine
end

