-- ==== Sys2Proof/Machine/Dispatch.lean ====
section
/-! DEFINITION. One arm per operation of 30_encoding.md rule R92, each a call of its own meaning. -/

namespace Sys2Proof.Machine

def exec (i : Instr) (s : State) : Host.Outcome State Fault Refusal :=
  match i with
  | .matchDur d n => Sys2Proof.Machine.execMatch d n s
  | .mdecReset => Sys2Proof.Machine.execMdecReset s
  | .mdecAdv mds kind => Sys2Proof.Machine.execMdecAdv mds kind s
  | .mencReset => Sys2Proof.Machine.execMencReset s
  | .mencAdv mes bit => Sys2Proof.Machine.execMencAdv mes bit s
  | .mencFinish mes => Sys2Proof.Machine.execMencFinish mes s
  | .decReset => Sys2Proof.Machine.execDecReset s
  | .decFeed level d => Sys2Proof.Machine.execDecFeed level d s
  | .decSetcb en => Sys2Proof.Machine.execDecSetcb en s
  | .crc8Msb poly init data => Sys2Proof.Machine.execCrc8Msb poly init data s
  | .crc8Lsb poly init data => Sys2Proof.Machine.execCrc8Lsb poly init data s
  | .pktParse src => Sys2Proof.Machine.execPktParse src s
  | .pktSerialize => Sys2Proof.Machine.execPktSerialize s
  | .encLoad keyValid repValid bitCount rep key => Sys2Proof.Machine.execEncLoad keyValid repValid bitCount rep key s
  | .encYield => Sys2Proof.Machine.execEncYield s
  | .encStop => Sys2Proof.Machine.execEncStop s

end Sys2Proof.Machine
end

