-- ==== Sys2Proof/Machine/Step.lean ====
section
/-! DEFINITION. One step of the block: one command frame, taken, run as one atomic step and answered
(00_scope.md rule R12; 30_encoding.md rules R90, R98). -/

namespace Sys2Proof.Machine

/-- Take the next command frame and run its operation; answer `ILLEGAL_OP` where it spells none (R98);
with no frame waiting the block is idle (R295). -/
def step (s : State) : Host.Outcome State Fault Refusal :=
  match fetch s with
  | none => .next (idle s)
  | some (frame, t) =>
    match decode frame with
    | .ok i => exec i t
    | .error _ => .next (answerIllegal t)

/-- `s` with the command frame of a word of spec/opcode_table.json as the next frame the port takes. -/
def State.withFetchWord (s : State) (nbits w : Nat) : State := offerFrame (tableFrame nbits w) s

end Sys2Proof.Machine
end

