-- ==== Sys2Proof/Machine/Pseudo.lean ====
section
/-! DEFINITION. The pseudo-operations of 30_encoding.md rule R101: sequences of operations, what they
answer, and how often `pkt_ready` pulses. They add no behaviour. -/

namespace Sys2Proof.Machine

/-- R101: `FEED_SEQ s1, s2, ...`: one DEC_FEED for each edge, in order. -/
def feedSeq (ys : List Symbol) : List Instr := ys.map fun y => .decFeed y.level y.duration

/-- R101: `YIELD_N n`: `n` times ENC_YIELD. -/
def yieldN (n : Nat) : List Instr := List.replicate n .encYield

/-- R73: operations in the order they are invoked, each on the state the one before it left. -/
def execAll : List Instr → State → Host.Outcome State Fault Refusal
  | [], s => .next s
  | i :: rest, s =>
    match exec i s with
    | .next t => execAll rest t
    | .fault f => .fault f
    | .refused r => .refused r

/-- The response frames of a sequence of operations, in order, up to one that stops. -/
def responses : List Instr → State → List (List Byte)
  | [], _ => []
  | i :: rest, s =>
    match exec i s with
    | .next t => t.port.resp :: responses rest t
    | .fault _ => []
    | .refused _ => []

/-- How many operations of a sequence pulse `pkt_ready` (R281), up to one that stops. -/
def pulses : List Instr → State → Nat
  | [], _ => 0
  | i :: rest, s =>
    match exec i s with
    | .next t => (if t.port.pktReady then 1 else 0) + pulses rest t
    | .fault _ => 0
    | .refused _ => 0

/-- R94: the symbol of an ENC_YIELD answer, none for any other frame (the sentinel among them). -/
def symbolOfFrame : List Byte → Option Symbol
  | [st, valid, l, a, b, c, d] =>
    if st = statusByte .ok ∧ valid = 1#8 then
      some { level := l.getLsbD 0, duration := be32 a b c d }
    else none
  | _ => none

/-- R101: `REPLAY n`: `n` times ENC_YIELD, then DEC_FEED of the symbol answered. It is defined only
while the answers are symbols: at the sentinel it ends. -/
def replay : Nat → State → Host.Outcome State Fault Refusal
  | 0, s => .next s
  | n + 1, s =>
    match exec .encYield s with
    | .next t =>
      match symbolOfFrame t.port.resp with
      | none => .next t
      | some y =>
        match exec (.decFeed y.level y.duration) t with
        | .next u => replay n u
        | .fault f => .fault f
        | .refused r => .refused r
    | .fault f => .fault f
    | .refused r => .refused r

end Sys2Proof.Machine
end

