-- ==== Sys2Proof/Safety.lean ====
section
/-! DEFINITION. The invariant of the block, component by component, and what a safe run is. -/

namespace Sys2Proof.Machine

/-- Decoder: `DCNT` against `DSTATE` (R24), the unfilled bits of `DBUF` are 0 (R25), a cleared
`MD_PEND` has a cleared `MD_LVL` and nothing is pending outside `FD` and `CPL` (R26, R171). -/
abbrev DecInv (x : DecState) : Prop :=
  (x.dstate = .fd → x.dcnt.toNat ≤ 175) ∧
  (x.dstate = .cpl ↔ x.dcnt = 176#8) ∧
  (x.dstate ≠ .fd → x.dstate ≠ .cpl → x.dcnt = 0#8 ∧ x.mdPend = false) ∧
  (∀ k, k < 176 → x.dcnt.toNat ≤ k → bufBit x.dbuf k = false) ∧
  (x.mdPend = false → x.mdLvl = false)

/-- Parser: every field register is what PKT_PARSE computes from `PBUF` (R30, R31, R32), which is
still all zero before the first parse (R43). -/
abbrev PrsInv (p : PrsState) : Prop :=
  p = { parsed p.pbuf with pValid := p.pValid } ∧ (p.pValid = false → p.pbuf = Packet.zero)

/-- Encoder: either no job was ever loaded, or `E_SYM` is what rule R239 generates from `E_BUF`
(R33 to R40); no contract violation has happened (R276). -/
abbrev EncInv (c : Config) (e : EncState) : Prop :=
  e = EncState.reset ∨
  (genSymbols c e.eBuf = some ({ step := e.meStep, prev := e.mePrev }, e.eSym) ∧
    e.eBits = 176#16 ∧ e.eLen.toNat = e.eSym.length ∧ 223 ≤ e.eLen.toNat ∧ e.eLen.toNat ≤ 398 ∧
    e.eCur.toNat < e.eLen.toNat ∧ e.meStep = .start ∧ e.eFault = false)

/-- The notification line pulses only in a step that leaves a packet held (R281). -/
abbrev PortInv (s : State) : Prop := s.port.pktReady = true → s.dec.dstate = .cpl

/-- The invariant: a well-formed configuration (R9) and the four parts. -/
abbrev Inv (s : State) : Prop :=
  s.cfg.WellFormed ∧ DecInv s.dec ∧ PrsInv s.prs ∧ EncInv s.cfg s.enc ∧ PortInv s

/-- A safe run: however many steps the block takes, it neither faults nor refuses. -/
def Safe (s : State) : Prop := ∀ n, ∃ t, Host.Core.run Sys2Proof.core n s = .next t

/-- The half of the block an operation belongs to (R60, R73, R92). -/
inductive Side where
  | pure      -- reads and writes no state
  | decoder   -- decoder and parser
  | encoder
deriving DecidableEq, Repr

/-- R92: the side of each operation, from the table's "pure" column and its opcode's unit. -/
def side : Instr → Side
  | .matchDur _ _ => .pure
  | .mdecReset => .pure
  | .mdecAdv _ _ => .pure
  | .mencReset => .pure
  | .mencAdv _ _ => .pure
  | .mencFinish _ => .pure
  | .decReset => .decoder
  | .decFeed _ _ => .decoder
  | .decSetcb _ => .decoder
  | .crc8Msb _ _ _ => .pure
  | .crc8Lsb _ _ _ => .pure
  | .pktParse _ => .decoder
  | .pktSerialize => .decoder
  | .encLoad _ _ _ _ _ => .encoder
  | .encYield => .encoder
  | .encStop => .encoder

end Sys2Proof.Machine
end

