-- ==== Sys2Proof/Certificates/Slice0/Obligations.lean ====
section
/-! DEFINITION. The statements for the provers, as `def Obligations.<Name> : Prop`, after the few
definitions they are written with: the spec's tables and formulas, written from the spec a second
time and not from the model's definitions. -/

namespace Sys2Proof.Spec

open Sys2Proof.Machine

/-- The state after an operation that only answers: `s`, with the response frame, and no pulse. -/
def replies (s : State) (resp : List Byte) : State :=
  { s with port := { inq := s.port.inq, resp := resp, pktReady := false } }

/-- R120 on exact integers: `|d - n| < TE_DELTA`. -/
def near (c : Config) (d : Duration) (n : Nat) : Bool :=
  decide (|(d.toNat : Int) - (n : Int)| < (c.teDelta.toNat : Int))

/-- The five elements a decoder reset writes, at their reset values (R171); `CB_EN` as it was. -/
def cleared (x : DecState) : DecState :=
  { dstate := .rst, dcnt := 0#8, dbuf := Vector.replicate 22 0#8, mdPend := false, mdLvl := false,
    cbEn := x.cbEn }

/-- R91, R93, R98: a frame of a listed opcode, of the length its format says, with every
must-be-zero bit 0. -/
def legalFrame : List Byte → Bool
  | [] => false
  | op :: rest =>
    let v := fun i => ((rest[i]?).getD 0#8).toNat
    match op.toNat with
    | 0x10 => rest.length == 8
    | 0x20 | 0x24 | 0x30 | 0x43 | 0x51 | 0x52 => rest.length == 0
    | 0x21 => rest.length == 2 && v 0 < 4 && v 1 < 4
    | 0x25 => rest.length == 2 && v 0 < 8 && v 1 < 2
    | 0x26 => rest.length == 1 && v 0 < 8
    | 0x31 => rest.length == 5 && v 0 < 2
    | 0x32 => rest.length == 1 && v 0 < 2
    | 0x40 | 0x41 => rest.length ≥ 3 && rest.length == 3 + v 2
    | 0x42 => (rest.length == 1 && v 0 == 0) || (rest.length == 23 && v 0 == 1)
    | 0x50 => rest.length == 29 && v 0 < 4
    | _ => false

/-- The table of R145: `pend`, `lvl`, `kind`, `pend'`, `lvl'`, and the code of `res`; the last four
rows are R93's `pend = 0, lvl = 1`, read as `(0, 0)`. -/
def mdecTable : List (Bool × Bool × Kind × Bool × Bool × Byte) :=
  [(false, false, .sl, true, false, 0#8), (false, false, .sh, true, true, 0#8),
   (false, false, .ll, false, false, 1#8), (false, false, .lh, false, false, 1#8),
   (true, false, .sl, false, false, 1#8), (true, false, .sh, false, false, 2#8),
   (true, false, .ll, false, false, 1#8), (true, false, .lh, true, true, 2#8),
   (true, true, .sl, false, false, 3#8), (true, true, .sh, false, false, 1#8),
   (true, true, .ll, true, false, 3#8), (true, true, .lh, false, false, 1#8),
   (false, true, .sl, true, false, 0#8), (false, true, .sh, true, true, 0#8),
   (false, true, .ll, false, false, 1#8), (false, true, .lh, false, false, 1#8)]

/-- R93: the byte of two one-bit fields, `hi` in bit 1 and `lo` in bit 0. -/
def twoBits (hi lo : Bool) : Byte := (if hi then 2#8 else 0#8) + (if lo then 1#8 else 0#8)

/-- R95: the Kind codes. -/
def kindCode : Kind → Byte
  | .sl => 0#8
  | .sh => 1#8
  | .ll => 2#8
  | .lh => 3#8

/-- R93: the `mes` byte, `step` in bits 2..1 and `prev` in bit 0. -/
def mesByte (step : Nat) (prev : Bool) : Byte :=
  BitVec.ofNat 8 (2 * step + (if prev then 1 else 0))

/-- R159: the kinds after the first, for the wire bit `p` before them: one long where the bit
differs, two shorts where it is equal, and the closing short. -/
def streamRest (p : Bool) : List Bool → List Kind
  | [] => [if p then .sh else .sl]
  | w :: ws =>
    if w = p then (if p then .sh else .sl) :: (if w then .sl else .sh) :: streamRest w ws
    else (if p then .lh else .ll) :: streamRest w ws

/-- R159: the kind stream of wire bits, for at least one bit. -/
def stream : List Bool → List Kind
  | [] => []
  | w :: ws => (if w then .sl else .sh) :: streamRest w ws

/-- R159, R240: `E`, the number of neighbours that are equal. -/
def equalPairs : List Bool → Nat
  | [] => 0
  | w :: ws =>
    match ws with
    | [] => 0
    | v :: _ => (if v = w then 1 else 0) + equalPairs ws

/-- Feed kinds in order to MDEC_ADV (R160): the final state and the results. -/
def mdecRun : MdState → List Kind → MdState × List MdRes
  | m, [] => (m, [])
  | m, k :: ks =>
    let a := mdecAdvance m k
    let r := mdecRun a.1 ks
    (r.1, a.2 :: r.2)

/-- The bits among the results of a run. -/
def bitsOf : List MdRes → List Bool
  | [] => []
  | .bit b :: rs => b :: bitsOf rs
  | .nothing :: rs => bitsOf rs
  | .violation :: rs => bitsOf rs

/-- R179: the classification of an edge in `FD`. -/
def dataKind (c : Config) (dcnt : Nat) (level : Level) (d : Duration) : Option Kind :=
  let s := c.teShort.toNat
  let l := c.teLong.toNat
  if near c d s || (dcnt == 175 && near c d (l + s + s / 2)) then
    some (if level then .sh else .sl)
  else if near c d l then some (if level then .lh else .ll)
  else none

/-- R201 on numbers: one shift of the register `rem`. -/
def shiftUp (poly rem : Nat) : Nat :=
  if 128 ≤ rem then (2 * rem - 256) ^^^ poly else 2 * rem

/-- R202 on numbers: one shift of the register `rem`; `p` is the reversed polynomial. -/
def shiftDown (p rem : Nat) : Nat := if rem % 2 = 1 then (rem / 2) ^^^ p else rem / 2

/-- R13: `rev8` on numbers: bit `i` moves to bit `7 - i`. -/
def revNat (v : Nat) : Nat := ((List.range 8).map fun i => (v / 2 ^ i % 2) * 2 ^ (7 - i)).sum

/-- R201 on numbers: CRC8_MSB. -/
def crcUp (poly init : Nat) (data : List Byte) : Nat :=
  data.foldl (fun rem b => Nat.iterate (shiftUp poly) 8 (rem ^^^ b.toNat)) init

/-- R202 on numbers: CRC8_LSB. -/
def crcDown (poly init : Nat) (data : List Byte) : Nat :=
  data.foldl (fun rem b => Nat.iterate (shiftDown (revNat poly)) 8 (rem ^^^ b.toNat)) (revNat init)

/-- A packet with bit `k` (R62) inverted. -/
def flipBit (b : Packet) (k : Nat) : Packet :=
  b.setIfInBounds (k / 8) (((b[k / 8]?).getD 0#8) ^^^ (1#8 <<< (7 - k % 8)))

/-- R203, R204, R206: the CRC a packet should hold, 0 for an unknown type. -/
def expectedCrc (b : Packet) : Nat :=
  if b[0].toNat = 0x50 then 255 - crcUp 0x07 0x00 ((b.toList.drop 1).take 20) ^^^ 0x55
  else if b[0].toNat = 0x70 then crcDown 0x07 0xFF (b.toList.take 21)
  else 0

/-- R206: is the type one of the two recognised. -/
def recognised (b : Packet) : Bool := b[0].toNat == 0x50 || b[0].toNat == 0x70

/-- R206: does the packet validate. -/
def validates (b : Packet) : Bool := recognised b && expectedCrc b == b[21].toNat

/-- R210: the parser after PKT_PARSE of `b`, its fields by their byte offsets (R68). -/
def parserAfter (b : Packet) : PrsState :=
  { pbuf := b, pType := b[0], pSerial := b[1] ++ b[2] ++ b[3] ++ b[4],
    pData1 := b[5] ++ b[6] ++ b[7] ++ b[8] ++ b[9] ++ b[10] ++ b[11] ++ b[12],
    pData2 := b[13] ++ b[14] ++ b[15] ++ b[16] ++ b[17] ++ b[18] ++ b[19] ++ b[20],
    pCrc := b[21], pCalc := BitVec.ofNat 8 (expectedCrc b), pKnown := recognised b,
    pOk := validates b, pValid := true }

/-- R94, R210: the response frame of a successful PKT_PARSE of `b`. -/
def parseReply (b : Packet) : List Byte :=
  0x00#8 :: (b.toList ++ [BitVec.ofNat 8 (expectedCrc b), twoBits (recognised b) (validates b)])

/-- R94: the response frame of ENC_YIELD with a symbol. -/
def symbolReply (y : Symbol) : List Byte :=
  [0x00#8, 1#8, if y.level then 1#8 else 0#8, y.duration.extractLsb' 24 8,
   y.duration.extractLsb' 16 8, y.duration.extractLsb' 8 8, y.duration.extractLsb' 0 8]

/-- R94: the response frame of the sentinel. -/
def sentinelReply : List Byte := List.replicate 7 0#8

/-- A loaded encoder that can answer symbols (R245): what a successful load leaves and ENC_YIELD
keeps. -/
def jobRunning (e : EncState) : Prop :=
  e.eFault = false ∧ e.eActive = true ∧ e.eLen.toNat = e.eSym.length ∧ e.eCur.toNat < e.eLen.toNat

/-- R62 on numbers: bit `k` of a 22-byte store, the most significant bit of byte 0 first. -/
def bitAt (b : Packet) (k : Nat) : Bool :=
  decide (((b[k / 8]?).getD 0#8).toNat / 2 ^ (7 - k % 8) % 2 = 1)

/-- R236: the wire bits of a packet, in order: each stored bit inverted, the most significant bit of
byte 0 first. -/
def wire (b : Packet) : List Bool := (List.range 176).map fun k => !bitAt b k

/-- A symbol whose duration is the number `n` (R96). -/
def hasSymbol (ys : List Symbol) (i : Nat) (level : Level) (n : Nat) : Prop :=
  ∃ y, ys[i]? = some y ∧ y.level = level ∧ y.duration.toNat = n

end Sys2Proof.Spec

open Sys2Proof
open Sys2Proof.Machine

/-! ## Frames -/

/-- Every well-formed operation's frame is decoded to that operation: no operand bit is dropped. -/
def Obligations.DecodeOfEncode : Prop :=
  ∀ i : Instr, i.wellFormed = true → decode (encode i) = .ok i

/-- Every frame that decodes is the frame of the operation it decodes to, which is well formed: a
frame has one reading and an operation one spelling. That an operation has one spelling is the model's
choice (log entry 8): R93 reads the `mds` byte 0x01 as `(0, 0)`, and the model's decoder keeps it as an
operand of its own, which the meaning of MDEC_ADV then reads as `(0, 0)`. -/
def Obligations.EncodeOfDecode : Prop :=
  ∀ (f : List Byte) (i : Instr), decode f = .ok i → encode i = f ∧ i.wellFormed = true

/-- R91, R93, R98: the decoder reads an operation from exactly the legal frames. -/
def Obligations.LegalFramesDecode : Prop :=
  ∀ f : List Byte, (∃ i, decode f = .ok i) ↔ Spec.legalFrame f = true

/-- R98: an illegal frame is answered with `ILLEGAL_OP`, changes no state and raises nothing. Two
points are the model's choice: the frame is taken from a queue of the port (log entry 4), and an empty
frame counts as shorter than its format says (log entry 8). -/
def Obligations.IllegalFrameAnswered : Prop :=
  ∀ (s : State) (f : List Byte) (rest : List (List Byte)),
    s.port.inq = f :: rest → Spec.legalFrame f = false →
      step s = .next { s with port := { inq := rest, resp := [0x04#8], pktReady := false } }

/-- Words written out from rules R91 to R93 and the frames of 95_test_vectors.md decode to the
operations they stand for. -/
def Obligations.WrittenFramesDecode : Prop :=
  decode [0x10#8, 0#8, 0#8, 1#8, 0x37#8, 0#8, 0#8, 0#8, 0xD0#8] = .ok (.matchDur 311#32 208#32) ∧
  decode [0x21#8, 2#8, 3#8] = .ok (.mdecAdv { pend := true, lvl := false } .lh) ∧
  decode [0x25#8, 3#8, 0#8] = .ok (.mencAdv { step := .halfOut, prev := true } false) ∧
  decode [0x31#8, 0#8, 0#8, 0#8, 1#8, 0x38#8] = .ok (.decFeed false 312#32) ∧
  decode [0x40#8, 7#8, 0#8, 1#8, 0x12#8] = .ok (.crc8Msb 7#8 0#8 [0x12#8]) ∧
  decode [0x42#8, 0#8] = .ok (.pktParse .dec) ∧
  decode ([0x50#8, 3#8, 0#8, 0xB0#8, 0#8, 0#8, 0#8, 2#8] ++ List.replicate 22 0x55#8) =
    .ok (.encLoad true true 176#16 2#32 (Vector.replicate 22 0x55#8)) ∧
  decode [0x52#8] = .ok .encStop

/-! ## Steps and the invariant -/

/-- A step runs the decoded instruction: the frame at the head of the port is taken, and the step is
`exec` of its operation in the state without it; with no frame the state is kept (R295). The queue of
frames, and a step in which none waits, are the model's own (log entry 4). -/
def Obligations.StepRunsDecoded : Prop :=
  ∀ s : State,
    (∀ f rest i, s.port.inq = f :: rest → decode f = .ok i →
      step s = exec i { s with port := { s.port with inq := rest } }) ∧
    (s.port.inq = [] →
      step s = .next { s with port := { inq := [], resp := [], pktReady := false } })

/-- The invariant holds at reset, with the configuration the block was given (a free well-formed one,
log entry 1) and with every well-formed one. That `E_SYM` holds no entry then is the model's choice
(log entry 2). -/
def Obligations.InvariantAtReset : Prop :=
  Inv State.reset ∧ ∀ c : Config, c.WellFormed → Inv (State.resetWith c)

/-- Every step keeps the invariant: `DCNT` against `DSTATE`, the unfilled bits of `DBUF`, the parser
registers against `PBUF`, `E_SYM` against `E_BUF`, the cursor in range, no contract violation. -/
def Obligations.InvariantKept : Prop :=
  ∀ s t : State, Inv s → step s = .next t → Inv t

/-- From every state that meets the invariant every run of any length, with any frames waiting, goes
on: no step faults or refuses (the queue of frames is the model's, log entry 4). -/
def Obligations.InvariantRunsSafe : Prop := ∀ s : State, Inv s → Safe s

/-- Which operation may change what: the configuration never; the decoder by DEC_RESET, DEC_FEED and
DEC_SETCB only, `CB_EN` by DEC_SETCB only; the parser by PKT_PARSE only; the encoder by ENC_LOAD,
ENC_YIELD and ENC_STOP only, of it `E_BUF`, `E_BITS`, `E_SYM`, `E_LEN`, `ME_STEP`, `ME_PREV` and
`E_FAULT` by ENC_LOAD only, which alone sets `E_ACTIVE`. -/
def Obligations.WriteSets : Prop :=
  ∀ (i : Instr) (s t : State), exec i s = .next t →
    t.cfg = s.cfg ∧ t.port.inq = s.port.inq ∧
    (t.dec ≠ s.dec → i = .decReset ∨ (∃ l d, i = .decFeed l d) ∨ ∃ en, i = .decSetcb en) ∧
    (t.dec.cbEn ≠ s.dec.cbEn → ∃ en, i = .decSetcb en) ∧
    (t.prs ≠ s.prs → ∃ src, i = .pktParse src) ∧
    (t.enc ≠ s.enc → side i = .encoder) ∧
    ((t.enc.eBuf ≠ s.enc.eBuf ∨ t.enc.eBits ≠ s.enc.eBits ∨ t.enc.eSym ≠ s.enc.eSym ∨
        t.enc.eLen ≠ s.enc.eLen ∨ t.enc.meStep ≠ s.enc.meStep ∨ t.enc.mePrev ≠ s.enc.mePrev ∨
        t.enc.eFault ≠ s.enc.eFault ∨ (s.enc.eActive = false ∧ t.enc.eActive = true)) →
      ∃ kv rv n r k, i = .encLoad kv rv n r k)

/-- The operations of the two sides commute: in either order each side ends in the same state with
the same answer, and the notification pulses the same. -/
def Obligations.SidesCommute : Prop :=
  ∀ (i j : Instr) (s s1 s2 : State), side i = .decoder → side j = .encoder →
    exec i s = .next s1 → exec j s1 = .next s2 →
      ∃ t1 t2, exec j s = .next t1 ∧ exec i t1 = .next t2 ∧
        t2.cfg = s2.cfg ∧ t2.dec = s2.dec ∧ t2.prs = s2.prs ∧ t2.enc = s2.enc ∧
        t2.port.inq = s2.port.inq ∧ t2.freeTick = s2.freeTick ∧
        t1.port.resp = s2.port.resp ∧ t2.port.resp = s1.port.resp ∧
        t2.port.pktReady = s1.port.pktReady

/-- A pure operation leaves no trace but its answer, and its answer is a function of its operands and
the configuration. -/
def Obligations.PureOperationsLeaveNoTrace : Prop :=
  ∀ (i : Instr) (s s' : State), side i = .pure → s'.cfg = s.cfg →
    ∃ r, exec i s = .next (Spec.replies s r) ∧ exec i s' = .next (Spec.replies s' r)

/-- R281: `pkt_ready` pulses in exactly the DEC_FEED steps that take the decoder to `CPL`. -/
def Obligations.PulseExactlyAtCompletion : Prop :=
  ∀ (i : Instr) (s t : State), exec i s = .next t →
    (t.port.pktReady = true ↔
      (∃ l d, i = .decFeed l d) ∧ s.dec.dstate ≠ .cpl ∧ t.dec.dstate = .cpl) ∧
    (t.port.pktReady = true →
      s.dec.cbEn = true ∧ s.dec.dstate = .fd ∧ s.dec.dcnt.toNat = 175 ∧ t.dec.dcnt.toNat = 176)

/-- R300: the reset values of every element, for every configuration (`E_SYM` is unspecified and not
stated). -/
def Obligations.ResetValues : Prop :=
  ∀ c : Config,
    let s := State.resetWith c
    s.cfg = c ∧ s.dec.dstate = .rst ∧ s.dec.dcnt = 0#8 ∧ s.dec.dbuf = Vector.replicate 22 0#8 ∧
    s.dec.mdPend = false ∧ s.dec.mdLvl = false ∧ s.dec.cbEn = false ∧
    s.prs.pbuf = Vector.replicate 22 0#8 ∧ s.prs.pType = 0#8 ∧ s.prs.pSerial = 0#32 ∧
    s.prs.pData1 = 0#64 ∧ s.prs.pData2 = 0#64 ∧ s.prs.pCrc = 0#8 ∧ s.prs.pCalc = 0#8 ∧
    s.prs.pKnown = false ∧ s.prs.pOk = false ∧ s.prs.pValid = false ∧
    s.enc.eBuf = Vector.replicate 22 0#8 ∧ s.enc.eBits = 0#16 ∧ s.enc.eRep = 0#32 ∧
    s.enc.eCur = 0#9 ∧ s.enc.eLen = 0#9 ∧ s.enc.eActive = false ∧ s.enc.meStep = .start ∧
    s.enc.mePrev = false ∧ s.enc.eFault = false

/-! ## Stores -/

/-- R63: an append within `DCNT <= 175` sets bit `DCNT` of `DBUF`, which was 0, to the bit appended,
changes no other bit, and counts it. -/
def Obligations.BufAppendSetsOneBit : Prop :=
  ∀ (v : Bool) (x : DecState), x.dcnt.toNat ≤ 175 →
    (∀ k, x.dcnt.toNat ≤ k → k < 176 → Spec.bitAt x.dbuf k = false) →
    ∃ y, bufAppend v x = some y ∧ y.dcnt.toNat = x.dcnt.toNat + 1 ∧
      (∀ k, k < 176 → Spec.bitAt y.dbuf k = if k = x.dcnt.toNat then v else Spec.bitAt x.dbuf k) ∧
      y = { x with dbuf := y.dbuf, dcnt := y.dcnt }

/-- R62, R64: a store is read most significant first: bit `k` is bit `7 - (k mod 8)` of byte `k div 8`,
on numbers, and the big-endian accumulation is the concatenation of its bytes, the lowest offset
highest. -/
def Obligations.StoreReadsBigEndian : Prop :=
  (∀ (b : Packet) (k : Nat) (h : k < 176),
    bufBit b k = decide (b[k / 8].toNat / 2 ^ (7 - k % 8) % 2 = 1)) ∧
  ∀ (b : Packet) (off : Nat),
    (∀ h : off + 4 ≤ 22, bufBytesBE b off 4 = b[off] ++ b[off + 1] ++ b[off + 2] ++ b[off + 3]) ∧
    (∀ h : off + 8 ≤ 22, bufBytesBE b off 8 = b[off] ++ b[off + 1] ++ b[off + 2] ++ b[off + 3] ++
      b[off + 4] ++ b[off + 5] ++ b[off + 6] ++ b[off + 7])

/-! ## Timing classifier -/

/-- R121: MATCH answers 1 exactly when `|d - n| < TE_DELTA`, and changes nothing. -/
def Obligations.MatchAnswers : Prop :=
  ∀ (d n : Duration) (s : State),
    decode (0x10#8 :: (bytes32 d ++ bytes32 n)) = .ok (.matchDur d n) ∧
    exec (.matchDur d n) s =
      .next (Spec.replies s [0x00#8, if Spec.near s.cfg d n.toNat then 1#8 else 0#8])

/-- R123: the durations that match a nominal are the open interval around it, both ends excluded,
`2 * TE_DELTA - 1` of them where `n >= TE_DELTA`. -/
def Obligations.MatchBoundary : Prop :=
  ∀ (c : Config) (n : Nat), 1 ≤ c.teDelta.toNat →
    (∀ d, durMatches c d n = true ↔ n < d + c.teDelta.toNat ∧ d < n + c.teDelta.toNat) ∧
    durMatches c (n + c.teDelta.toNat) n = false ∧
    durMatches c (n + c.teDelta.toNat - 1) n = true ∧
    (c.teDelta.toNat ≤ n →
      durMatches c (n - c.teDelta.toNat) n = false ∧
      durMatches c (n - c.teDelta.toNat + 1) n = true ∧
      ((Finset.range (n + c.teDelta.toNat)).filter fun d => durMatches c d n = true).card =
        2 * c.teDelta.toNat - 1)

/-- In a separated configuration no duration matches two nominals that one decoder state tries. -/
def Obligations.SeparatedWindowsDisjoint : Prop :=
  ∀ (c : Config) (d : Nat), c.Separated →
    ¬ (durMatches c d (nShort c) = true ∧ durMatches c d (nLong c) = true) ∧
    ¬ (durMatches c d (nLong c) = true ∧ durMatches c d (nTerm c) = true) ∧
    ¬ (durMatches c d (nShort c) = true ∧ durMatches c d (nTerm c) = true) ∧
    ¬ (durMatches c d (nShort c) = true ∧ durMatches c d (nMark c) = true)

/-! ## Manchester line coder -/

/-- R144, R152: MDEC_RESET and MENC_RESET answer the empty carry-over and change nothing. -/
def Obligations.LineCoderResets : Prop :=
  ∀ s : State,
    (decode [0x20#8] = .ok .mdecReset ∧
      exec .mdecReset s = .next (Spec.replies s [0x00#8, Spec.twoBits false false])) ∧
    (decode [0x24#8] = .ok .mencReset ∧
      exec .mencReset s = .next (Spec.replies s [0x00#8, Spec.mesByte 0 false]))

/-- R145: MDEC_ADV answers by the rule's twelve-row table, reads `pend = 0, lvl = 1` as `(0, 0)`, and
changes nothing. -/
def Obligations.MdecAdvFollowsTable : Prop :=
  ∀ (s : State) (p l p' l' : Bool) (k : Kind) (res : Byte),
    (p, l, k, p', l', res) ∈ Spec.mdecTable →
      decode [0x21#8, Spec.twoBits p l, Spec.kindCode k] =
        .ok (.mdecAdv { pend := p, lvl := l } k) ∧
      exec (.mdecAdv { pend := p, lvl := l } k) s =
        .next (Spec.replies s [0x00#8, Spec.twoBits p' l', res])

/-- R153, R154, R155: MENC_ADV at steps 0, 1 and 2, for both bits, and that it changes nothing. -/
def Obligations.MencAdvSteps : Prop :=
  ∀ (s : State) (prev bit : Bool),
    (decode [0x25#8, Spec.mesByte 0 prev, if bit then 1#8 else 0#8] =
        .ok (.mencAdv { step := .start, prev := prev } bit) ∧
      exec (.mencAdv { step := .start, prev := prev } bit) s =
        .next (Spec.replies s [0x00#8, Spec.mesByte 1 bit, 1#8, if bit then 0#8 else 1#8])) ∧
    (decode [0x25#8, Spec.mesByte 1 prev, if bit then 1#8 else 0#8] =
        .ok (.mencAdv { step := .halfOut, prev := prev } bit) ∧
      (bit = prev → exec (.mencAdv { step := .halfOut, prev := prev } bit) s =
        .next (Spec.replies s [0x00#8, Spec.mesByte 2 prev, 0#8, if prev then 1#8 else 0#8])) ∧
      (bit ≠ prev → exec (.mencAdv { step := .halfOut, prev := prev } bit) s =
        .next (Spec.replies s [0x00#8, Spec.mesByte 1 bit, 1#8, if prev then 3#8 else 2#8]))) ∧
    (decode [0x25#8, Spec.mesByte 2 prev, if bit then 1#8 else 0#8] =
        .ok (.mencAdv { step := .cellOut, prev := prev } bit) ∧
      exec (.mencAdv { step := .cellOut, prev := prev } bit) s =
        .next (Spec.replies s [0x00#8, Spec.mesByte 1 bit, 1#8, if bit then 0#8 else 1#8]))

/-- R157: MENC_FINISH at steps 0, 1 and 2 answers the short of level `prev` and step 0, and changes
nothing. R156: at the corrupt step 3 it and MENC_ADV answer `CONTRACT_VIOLATION` and change nothing;
raised inside ENC_LOAD the violation sets `E_FAULT` (R276: and clears `E_ACTIVE`); and no advance and no
flush leaves step 3. -/
def Obligations.MencFinishAnswers : Prop :=
  ∀ (s : State) (prev : Bool),
    (∀ (step : MeStep) (n : Nat),
      (step, n) ∈ [(MeStep.start, 0), (MeStep.halfOut, 1), (MeStep.cellOut, 2)] →
        decode [0x26#8, Spec.mesByte n prev] = .ok (.mencFinish { step := step, prev := prev }) ∧
        exec (.mencFinish { step := step, prev := prev }) s =
          .next (Spec.replies s [0x00#8, Spec.mesByte 0 prev, if prev then 1#8 else 0#8])) ∧
    (decode [0x26#8, Spec.mesByte 3 prev] = .ok (.mencFinish { step := .corrupt, prev := prev }) ∧
      exec (.mencFinish { step := .corrupt, prev := prev }) s = .next (Spec.replies s [0x05#8])) ∧
    (∀ bit : Bool,
      decode [0x25#8, Spec.mesByte 3 prev, if bit then 1#8 else 0#8] =
        .ok (.mencAdv { step := .corrupt, prev := prev } bit) ∧
      exec (.mencAdv { step := .corrupt, prev := prev } bit) s =
        .next (Spec.replies s [0x05#8])) ∧
    ((raiseContractViolation s).enc.eFault = true ∧
      (raiseContractViolation s).enc.eActive = false) ∧
    (∀ (m m' : MeState) (bit adv : Bool) (k : Kind),
      (mencAdvance m bit = some (m', adv, k) → m'.step ≠ .corrupt) ∧
      (mencFlush m = some (m', k) → m'.step ≠ .corrupt))

/-- The kind stream of any nonempty wire bits by the caller's protocol: the closed form of the spec's
stream property, its count `n + 1 + E`, and levels that alternate. -/
def Obligations.EncodeStreamProperty : Prop :=
  ∀ ws : List Bool, ws ≠ [] →
    ∃ m ks m' k, mencBits mencStart ws = some (m, ks) ∧ mencFlush m = some (m', k) ∧
      ks ++ [k] = Spec.stream ws ∧ m'.step = .start ∧
      (ks ++ [k]).length = ws.length + 1 + Spec.equalPairs ws ∧
      (∀ i a b, (ks ++ [k])[i]? = some a → (ks ++ [k])[i + 1]? = some b →
        levelOf a ≠ levelOf b)

/-- The inverse property: the kinds of the encoder, fed to the decoder primitive, violate nothing,
resolve the NOT of each wire bit in order, the first kind resolving nothing and the last the last
bit, and end with nothing pending. -/
def Obligations.LineCoderInverse : Prop :=
  ∀ ws : List Bool, ws ≠ [] →
    ∃ m ks m' k r, mencBits mencStart ws = some (m, ks) ∧ mencFlush m = some (m', k) ∧
      Spec.mdecRun mdecStart (ks ++ [k]) = (mdecStart, r) ∧
      MdRes.violation ∉ r ∧ Spec.bitsOf r = ws.map (fun w => !w) ∧
      r.head? = some .nothing ∧ ∃ b, r.getLast? = some (.bit b)

/-! ## Decoder state machine -/

/-- R173: DEC_RESET, in every state. -/
def Obligations.DecResetEffect : Prop :=
  ∀ s : State, decode [0x30#8] = .ok .decReset ∧
    exec .decReset s = .next (Spec.replies { s with dec := Spec.cleared s.dec } [0x00#8])

/-- R172: DEC_SETCB, in every state. -/
def Obligations.DecSetcbEffect : Prop :=
  ∀ (en : Bool) (s : State),
    decode [0x32#8, if en then 1#8 else 0#8] = .ok (.decSetcb en) ∧
    exec (.decSetcb en) s = .next (Spec.replies { s with dec := { s.dec with cbEn := en } } [0x00#8])

/-- R175: DEC_FEED in `RST`. -/
def Obligations.FeedInReset : Prop :=
  ∀ (level : Level) (d : Duration) (s : State), s.dec.dstate = .rst →
    exec (.decFeed level d) s = .next (Spec.replies
      { s with dec :=
          if level = false ∧ Spec.near s.cfg d (s.cfg.teShort.toNat + s.cfg.teShort.toNat / 2) then
            { s.dec with dstate := .pas }
          else s.dec } [0x00#8])

/-- R176: DEC_FEED in `PAS`. -/
def Obligations.FeedInPreamble : Prop :=
  ∀ (level : Level) (d : Duration) (s : State), s.dec.dstate = .pas →
    exec (.decFeed level d) s = .next (Spec.replies
      { s with dec :=
          if level = true ∧ Spec.near s.cfg d (4 * s.cfg.teLong.toNat) then
            { s.dec with dstate := .phvl }
          else if Spec.near s.cfg d s.cfg.teShort.toNat then s.dec
          else Spec.cleared s.dec } [0x00#8])

/-- R177: DEC_FEED in `PHVL`. -/
def Obligations.FeedInMarker : Prop :=
  ∀ (level : Level) (d : Duration) (s : State), s.dec.dstate = .phvl →
    exec (.decFeed level d) s = .next (Spec.replies
      { s with dec :=
          if level = false ∧ Spec.near s.cfg d s.cfg.teLong.toNat then
            { s.dec with dstate := .pal }
          else Spec.cleared s.dec } [0x00#8])

/-- R178: DEC_FEED in `PAL`: the low short primes the line coder. -/
def Obligations.FeedInSync : Prop :=
  ∀ (level : Level) (d : Duration) (s : State), s.dec.dstate = .pal →
    exec (.decFeed level d) s = .next (Spec.replies
      { s with dec :=
          if level = false ∧ Spec.near s.cfg d s.cfg.teShort.toNat then
            { s.dec with dstate := .fd, mdPend := true, mdLvl := false }
          else if Spec.near s.cfg d s.cfg.teLong.toNat then s.dec
          else Spec.cleared s.dec } [0x00#8])

/-- R179: in `FD` an edge is a short, a long, or resets the decoder; the terminal window is open at
175 bits only. -/
def Obligations.FeedDataClassifies : Prop :=
  ∀ (level : Level) (d : Duration) (s : State), s.dec.dstate = .fd →
    (Spec.dataKind s.cfg s.dec.dcnt.toNat level d = none →
      exec (.decFeed level d) s =
        .next (Spec.replies { s with dec := Spec.cleared s.dec } [0x00#8])) ∧
    (∀ k, Spec.dataKind s.cfg s.dec.dcnt.toNat level d = some k →
      feedEdge s.cfg level d.toNat s.dec = feedKind k s.dec)

/-- R180: DEC_FEED in `FD` of an edge classified as `k`. A violation (a long with nothing pending, or
an event of the level of the pending half) resets the decoder; a first half is kept as pending and
nothing is appended; either way the answer is `OK`, nothing pulses and the rest is kept. A second half
resolves the level of the pending half and hands it on. The last clause says the same of the line-coder
step alone, for every decoder state. -/
def Obligations.FeedDataLineCoder : Prop :=
  (∀ (level : Level) (d : Duration) (s : State) (k : Kind), s.dec.dstate = .fd →
    Spec.dataKind s.cfg s.dec.dcnt.toNat level d = some k →
    (s.dec.mdPend = false → k = .ll ∨ k = .lh →
      exec (.decFeed level d) s =
        .next (Spec.replies { s with dec := Spec.cleared s.dec } [0x00#8])) ∧
    (s.dec.mdPend = true → s.dec.mdLvl = level →
      exec (.decFeed level d) s =
        .next (Spec.replies { s with dec := Spec.cleared s.dec } [0x00#8])) ∧
    (s.dec.mdPend = false → k = .sl ∨ k = .sh →
      exec (.decFeed level d) s = .next (Spec.replies
        { s with dec := { s.dec with mdPend := true, mdLvl := level } } [0x00#8])) ∧
    (s.dec.mdPend = true → s.dec.mdLvl ≠ level →
      feedEdge s.cfg level d.toNat s.dec = feedBit s.dec.mdLvl
        { s.dec with mdPend := (k == .ll || k == .lh), mdLvl := (k == .lh) })) ∧
  ∀ (k : Kind) (x : DecState),
    (x.mdPend = false → k = .ll ∨ k = .lh → feedKind k x = some (Spec.cleared x, false)) ∧
    (x.mdPend = true → levelOf k = x.mdLvl → feedKind k x = some (Spec.cleared x, false)) ∧
    (x.mdPend = false → k = .sl ∨ k = .sh →
      feedKind k x = some ({ x with mdPend := true, mdLvl := levelOf k }, false)) ∧
    (x.mdPend = true → levelOf k ≠ x.mdLvl →
      (k = .sl ∨ k = .sh →
        feedKind k x = feedBit x.mdLvl { x with mdPend := false, mdLvl := false }) ∧
      (k = .ll ∨ k = .lh →
        feedKind k x = feedBit x.mdLvl { x with mdPend := true, mdLvl := levelOf k }))

/-- R181: an edge in `FD` below 175 bits whose event resolves a bit appends it: bit `DCNT` of `DBUF`
becomes the level of the pending half, no other bit changes, `DCNT` counts it. -/
def Obligations.FeedDataAppends : Prop :=
  ∀ (level : Level) (d : Duration) (s : State) (k : Kind),
    s.dec.dstate = .fd → s.dec.dcnt.toNat < 175 →
    (∀ j, s.dec.dcnt.toNat ≤ j → j < 176 → Spec.bitAt s.dec.dbuf j = false) →
    Spec.dataKind s.cfg s.dec.dcnt.toNat level d = some k →
    s.dec.mdPend = true → s.dec.mdLvl ≠ level →
    ∃ buf, (∀ j, j < 176 →
        Spec.bitAt buf j = if j = s.dec.dcnt.toNat then s.dec.mdLvl else Spec.bitAt s.dec.dbuf j) ∧
      exec (.decFeed level d) s = .next (Spec.replies
        { s with dec :=
            { s.dec with
              dbuf := buf, dcnt := BitVec.ofNat 8 (s.dec.dcnt.toNat + 1),
              mdPend := (k == .ll || k == .lh), mdLvl := (k == .lh) } } [0x00#8])

/-- R182: the edge in `FD` at 175 bits that resolves the last one: with a receiver the packet is held
in `CPL` with `DCNT` = 176 and `pkt_ready` pulses; without one the decoder is reset and nothing
pulses. -/
def Obligations.FeedDataCompletes : Prop :=
  ∀ (level : Level) (d : Duration) (s : State) (k : Kind),
    s.dec.dstate = .fd → s.dec.dcnt.toNat = 175 → Spec.bitAt s.dec.dbuf 175 = false →
    Spec.dataKind s.cfg 175 level d = some k → s.dec.mdPend = true → s.dec.mdLvl ≠ level →
    (s.dec.cbEn = true →
      ∃ buf, (∀ j, j < 176 →
          Spec.bitAt buf j = if j = 175 then s.dec.mdLvl else Spec.bitAt s.dec.dbuf j) ∧
        exec (.decFeed level d) s = .next
          { s with
            dec := { dstate := .cpl, dcnt := 176#8, dbuf := buf, mdPend := (k == .ll || k == .lh),
                     mdLvl := (k == .lh), cbEn := true },
            port := { inq := s.port.inq, resp := [0x00#8], pktReady := true } }) ∧
    (s.dec.cbEn = false →
      exec (.decFeed level d) s =
        .next (Spec.replies { s with dec := Spec.cleared s.dec } [0x00#8]))

/-- R183, over any number of edges: while a packet is held, edges change no state, answer `OK` and
pulse nothing. -/
def Obligations.HeldPacketIgnoresEdges : Prop :=
  ∀ (ys : List Symbol) (s : State), s.dec.dstate = .cpl → ys ≠ [] →
    execAll (feedSeq ys) s = .next (Spec.replies s [0x00#8]) ∧ pulses (feedSeq ys) s = 0 ∧
      responses (feedSeq ys) s = List.replicate ys.length [0x00#8]

/-- R186: no edge sequence makes DEC_FEED fail, fault or answer an error. -/
def Obligations.EdgesNeverFail : Prop :=
  ∀ (ys : List Symbol) (s : State), DecInv s.dec →
    ∃ t, execAll (feedSeq ys) s = .next t ∧ DecInv t.dec ∧
      responses (feedSeq ys) s = List.replicate ys.length [0x00#8]

/-! ## Parser and CRC -/

/-- R203, R204, R206: the CRC selector on every 22 bytes, the CRCs computed on numbers; and R211: the
outcome a caller reads from the parser's flags. -/
def Obligations.CrcSelectorAnswers : Prop :=
  ∀ b : Packet,
    crcSelect b = { known := Spec.recognised b, value := BitVec.ofNat 8 (Spec.expectedCrc b),
                    ok := Spec.validates b } ∧
    (crcStatus (parsed b) = .ok ↔ Spec.validates b = true) ∧
    (crcStatus (parsed b) = .wrong ↔
      Spec.recognised b = true ∧ Spec.expectedCrc b ≠ b[21].toNat) ∧
    (crcStatus (parsed b) = .unverifiable ↔ b[0] ≠ 0x50#8 ∧ b[0] ≠ 0x70#8)

/-- R201: CRC8_MSB answers the rule's shift register, computed on numbers, and changes nothing. -/
def Obligations.CrcMsbAnswers : Prop :=
  ∀ (poly init : Byte) (data : List Byte) (s : State), data.length ≤ 255 →
    decode (0x40#8 :: poly :: init :: BitVec.ofNat 8 data.length :: data) =
      .ok (.crc8Msb poly init data) ∧
    exec (.crc8Msb poly init data) s =
      .next (Spec.replies s [0x00#8, BitVec.ofNat 8 (Spec.crcUp poly.toNat init.toNat data)])

/-- R202: CRC8_LSB answers the rule's shift register, computed on numbers, and changes nothing. -/
def Obligations.CrcLsbAnswers : Prop :=
  ∀ (poly init : Byte) (data : List Byte) (s : State), data.length ≤ 255 →
    decode (0x41#8 :: poly :: init :: BitVec.ofNat 8 data.length :: data) =
      .ok (.crc8Lsb poly init data) ∧
    exec (.crc8Lsb poly init data) s =
      .next (Spec.replies s [0x00#8, BitVec.ofNat 8 (Spec.crcDown poly.toNat init.toNat data)])

/-- The two CRCs are mirror images: CRC8_LSB is CRC8_MSB of the bit-reversed bytes, bit-reversed. -/
def Obligations.CrcVariantsMirror : Prop :=
  ∀ (poly init : Byte) (data : List Byte),
    crc8LsbOf poly init data = rev8 (crc8MsbOf poly init (data.map rev8))

/-- Every single-bit error in a packet that validates is detected: with any one bit inverted the packet
no longer validates. A bit of bytes 1..21 leaves the type known; a bit of byte 0 changes the type, to
an unknown one but for bit 5 of byte 0 (`k = 2`), which selects the other variant. There too the check
fails: both CRCs keep the parity of their data, and the type byte 0x70, which only variant B covers, is
odd. -/
def Obligations.SingleBitErrorDetected : Prop :=
  ∀ (b : Packet) (k : Nat), (crcSelect b).ok = true → k < 176 →
    (crcSelect (Spec.flipBit b k)).ok = false ∧
    (8 ≤ k → (crcSelect (Spec.flipBit b k)).known = true) ∧
    (k < 8 → (Spec.flipBit b k)[0] ≠ b[0] ∧
      ((crcSelect (Spec.flipBit b k)).known = true ↔ k = 2))

/-- R210: PKT_PARSE of an operand: the fields by their byte offsets, the flags of the selector, the
answer, and nothing else changed; every 22 bytes are accepted. -/
def Obligations.ParseOperand : Prop :=
  ∀ (key : Packet) (s : State),
    decode (0x42#8 :: 1#8 :: key.toList) = .ok (.pktParse (.buf key)) ∧
    exec (.pktParse (.buf key)) s =
      .next (Spec.replies { s with prs := Spec.parserAfter key } (Spec.parseReply key))

/-- R209, R210: PKT_PARSE of the decoder: with a packet held it parses `DBUF` and leaves the decoder
as it is; otherwise it answers `NOT_READY` and changes nothing. -/
def Obligations.ParseDecoder : Prop :=
  ∀ s : State, decode [0x42#8, 0#8] = .ok (.pktParse .dec) ∧
    (s.dec.dstate = .cpl → exec (.pktParse .dec) s = .next
      (Spec.replies { s with prs := Spec.parserAfter s.dec.dbuf } (Spec.parseReply s.dec.dbuf))) ∧
    (s.dec.dstate ≠ .cpl → exec (.pktParse .dec) s = .next (Spec.replies s [0x03#8]))

/-- R214: PKT_SERIALIZE: `Bit` = 176 and the 22 bytes of `PBUF` once a parse has succeeded,
`NOT_READY` before; no state written. -/
def Obligations.SerializeAnswers : Prop :=
  ∀ s : State, decode [0x43#8] = .ok .pktSerialize ∧
    (s.prs.pValid = true → exec .pktSerialize s =
      .next (Spec.replies s (0x00#8 :: 0x00#8 :: 0xB0#8 :: s.prs.pbuf.toList))) ∧
    (s.prs.pValid = false → exec .pktSerialize s = .next (Spec.replies s [0x03#8]))

/-! ## Encoder -/

/-- R232, with the order of R283: a load without the encoder fault and with a wrong bit count, or
without a key, answers its own failure code and only clears `E_ACTIVE`. -/
def Obligations.LoadRejects : Prop :=
  ∀ (kv rv : Bool) (bits : BitVec 16) (rep : RepCount) (key : Packet) (s : State),
    s.enc.eFault = false →
    (bits ≠ 176#16 → exec (.encLoad kv rv bits rep key) s = .next
      (Spec.replies { s with enc := { s.enc with eActive := false } } [0x01#8])) ∧
    (bits = 176#16 → kv = false → exec (.encLoad kv rv bits rep key) s = .next
      (Spec.replies { s with enc := { s.enc with eActive := false } } [0x02#8]))

/-- R233: a load that passes the checks replaces the whole job, with the generated sequence, and
changes nothing outside the encoder. -/
def Obligations.LoadAccepts : Prop :=
  ∀ (rv : Bool) (rep : RepCount) (key : Packet) (s : State), s.enc.eFault = false →
    decode (0x50#8 :: Spec.twoBits rv true :: 0x00#8 :: 0xB0#8 :: (bytes32 rep ++ key.toList)) =
      .ok (.encLoad true rv 176#16 rep key) ∧
    ∃ m ys, genSymbols s.cfg key = some (m, ys) ∧ ys.length < 512 ∧
      exec (.encLoad true rv 176#16 rep key) s = .next (Spec.replies
        { s with enc :=
            { eBuf := key, eBits := 176#16, eRep := if rv then rep else s.cfg.repeatDefault,
              eCur := 0#9, eLen := BitVec.ofNat 9 ys.length, eSym := ys, eActive := true,
              meStep := .start, mePrev := m.prev, eFault := false } } [0x00#8])

/-- R234, R235: the preamble and the sync header of every generated sequence, and the closing symbol
of R237, durations as numbers, in every well-formed configuration. -/
def Obligations.SequenceFrame : Prop :=
  ∀ (c : Config) (key : Packet), c.WellFormed →
    ∃ m ys, genSymbols c key = some (m, ys) ∧
      (∀ r, r ≤ 20 →
        Spec.hasSymbol ys (2 * r) false
          (if r = 0 then c.teShort.toNat + c.teShort.toNat / 2 else c.teShort.toNat) ∧
        Spec.hasSymbol ys (2 * r + 1) true
          (if r = 20 then 4 * c.teLong.toNat else c.teShort.toNat)) ∧
      Spec.hasSymbol ys 42 false c.teLong.toNat ∧ Spec.hasSymbol ys 43 true c.teLong.toNat ∧
      Spec.hasSymbol ys 44 false c.teLong.toNat ∧ Spec.hasSymbol ys 45 true c.teLong.toNat ∧
      Spec.hasSymbol ys (ys.length - 1) (!Spec.bitAt key 175)
        (c.teLong.toNat + c.teShort.toNat + c.teShort.toNat / 2)

/-- R236, R238: between the sync header and the closing symbol stand the kinds of the inverted stored
bits, most significant first, as symbols. -/
def Obligations.SequenceData : Prop :=
  ∀ (c : Config) (key : Packet),
    ∃ m ys, genSymbols c key = some (m, ys) ∧
      (ys.drop 46).dropLast = (Spec.stream (Spec.wire key)).dropLast.map fun k =>
        match k with
        | .sl => { level := false, duration := c.teShort }
        | .sh => { level := true, duration := c.teShort }
        | .ll => { level := false, duration := c.teLong }
        | .lh => { level := true, duration := c.teLong }

/-- The length of the generated sequence is `223 + E`, between 223 and 398, and both ends occur. -/
def Obligations.SequenceLength : Prop :=
  (∀ (c : Config) (key : Packet),
    ∃ m ys, genSymbols c key = some (m, ys) ∧
      ys.length = 223 + Spec.equalPairs (Spec.wire key) ∧ 223 ≤ ys.length ∧ ys.length ≤ 398) ∧
  (∀ c : Config, ∃ m ys m' ys',
    genSymbols c (Vector.replicate 22 0x55#8) = some (m, ys) ∧ ys.length = 223 ∧
    genSymbols c (Vector.replicate 22 0x00#8) = some (m', ys') ∧ ys'.length = 398)

/-- The on-air length of one repetition does not depend on the packet. -/
def Obligations.OnAirLength : Prop :=
  ∀ (c : Config) (key : Packet), c.WellFormed →
    ∃ m ys, genSymbols c key = some (m, ys) ∧
      (ys.map fun y => y.duration.toNat).sum =
        411 * c.teShort.toNat + 2 * (c.teShort.toNat / 2)

/-- R244: ENC_YIELD with no repetition left or no active job answers the sentinel and writes
`E_ACTIVE` only. -/
def Obligations.YieldSentinel : Prop :=
  ∀ s : State, s.enc.eFault = false → s.enc.eRep = 0#32 ∨ s.enc.eActive = false →
    decode [0x51#8] = .ok .encYield ∧
    exec .encYield s = .next
      (Spec.replies { s with enc := { s.enc with eActive := false } } Spec.sentinelReply)

/-- R245: ENC_YIELD of a running job answers the symbol at the cursor and moves on; at the end of the
sequence the cursor returns to 0 with one repetition less. -/
def Obligations.YieldSymbol : Prop :=
  ∀ s : State, Spec.jobRunning s.enc → s.enc.eRep ≠ 0#32 →
    ∃ y, s.enc.eSym[s.enc.eCur.toNat]? = some y ∧
      exec .encYield s = .next (Spec.replies
        { s with enc :=
            if s.enc.eCur.toNat + 1 = s.enc.eLen.toNat then
              { s.enc with eCur := 0#9, eRep := BitVec.ofNat 32 (s.enc.eRep.toNat - 1) }
            else { s.enc with eCur := BitVec.ofNat 9 (s.enc.eCur.toNat + 1) } }
        (Spec.symbolReply y))

/-- R246: a job at its start with repeat count `N` yields the whole sequence exactly `N` times, then
the sentinel on every pull, whatever ENC_STOP calls stand among them. -/
def Obligations.RepeatLaw : Prop :=
  ∀ (s : State) (after : List Instr), Spec.jobRunning s.enc → s.enc.eCur = 0#9 →
    (∀ i ∈ after, i = .encYield ∨ i = .encStop) →
    ∃ t, execAll (yieldN (s.enc.eRep.toNat * s.enc.eLen.toNat)) s = .next t ∧
      responses (yieldN (s.enc.eRep.toNat * s.enc.eLen.toNat)) s =
        (List.replicate s.enc.eRep.toNat (s.enc.eSym.map Spec.symbolReply)).flatten ∧
      responses after t =
        after.map fun i => if i = .encYield then Spec.sentinelReply else [0x00#8]

/-- R247: ENC_STOP clears `E_ACTIVE` and writes nothing else, in every state. -/
def Obligations.StopEffect : Prop :=
  ∀ s : State, decode [0x52#8] = .ok .encStop ∧
    exec .encStop s = .next (Spec.replies { s with enc := { s.enc with eActive := false } } [0x00#8])

/-- R277: while `E_FAULT` is set ENC_LOAD and ENC_YIELD answer `CONTRACT_VIOLATION` and change
nothing, ENC_STOP still answers `OK`, no other operation depends on it, and no operation clears it. -/
def Obligations.EncoderFaultSticky : Prop :=
  ∀ s : State, s.enc.eFault = true →
    (∀ kv rv n r k, exec (.encLoad kv rv n r k) s = .next (Spec.replies s [0x05#8])) ∧
    exec .encYield s = .next (Spec.replies s [0x05#8]) ∧
    exec .encStop s = .next (Spec.replies { s with enc := { s.enc with eActive := false } } [0x00#8]) ∧
    (∀ (i : Instr) (t : State), side i ≠ .encoder →
      exec i { s with enc := { s.enc with eFault := false } } = .next t →
      exec i s = .next { t with enc := { t.enc with eFault := true } }) ∧
    (∀ (i : Instr) (t : State), exec i s = .next t → t.enc.eFault = true)

/-- No operation raises the contract violation inside ENC_LOAD: `E_FAULT` stays clear. -/
def Obligations.ContractViolationUnreachable : Prop :=
  ∀ (i : Instr) (s t : State), s.enc.eFault = false → exec i s = .next t → t.enc.eFault = false

/-! ## Both directions together -/

/-- The round trip: in a separated configuration, the sequence generated from any 22 bytes, fed edge
by edge to an empty decoder in `RST` with a receiver registered, ends in `CPL` with exactly those
bytes and one pulse if the first stored bit is 0; if it is 1 it never completes. -/
def Obligations.RoundTrip : Prop :=
  ∀ (key : Packet) (s : State), s.cfg.Separated → DecInv s.dec → s.dec.dstate = .rst →
    s.dec.cbEn = true →
    ∃ m ys t, genSymbols s.cfg key = some (m, ys) ∧ execAll (feedSeq ys) s = .next t ∧
      (Spec.bitAt key 0 = false →
        t.dec.dstate = .cpl ∧ t.dec.dbuf = key ∧ t.dec.dcnt = 176#8 ∧ pulses (feedSeq ys) s = 1 ∧
        t.port.pktReady = true) ∧
      (Spec.bitAt key 0 = true → t.dec.dstate ≠ .cpl ∧ pulses (feedSeq ys) s = 0)

/-- Recovery from garbage: in a separated configuration in which `N_FIRSTLOW` matches neither
`TE_SHORT` nor `TE_LONG`, whatever state earlier edges left a decoder without a held packet in, two
transmissions of a receivable packet end with that packet held. -/
def Obligations.SecondRepetitionDecoded : Prop :=
  ∀ (key : Packet) (s : State), s.cfg.Separated → DecInv s.dec → s.dec.dstate ≠ .cpl →
    s.dec.cbEn = true → Spec.bitAt key 0 = false →
    durMatches s.cfg (nFirstLow s.cfg) (nShort s.cfg) = false →
    durMatches s.cfg (nFirstLow s.cfg) (nLong s.cfg) = false →
    ∃ m ys t, genSymbols s.cfg key = some (m, ys) ∧
      execAll (feedSeq (ys ++ ys)) s = .next t ∧ t.dec.dstate = .cpl ∧ t.dec.dbuf = key ∧
      pulses (feedSeq (ys ++ ys)) s = 1

/-- One instance talking to itself: load a receivable packet, replay its sequence once, and the
decoder holds it; PKT_PARSE of the decoder then answers its bytes. -/
def Obligations.LoadReplayParse : Prop :=
  ∀ (key : Packet) (rep : RepCount) (s : State), s.cfg.Separated → DecInv s.dec →
    s.dec.dstate = .rst → s.dec.cbEn = true → s.enc.eFault = false → rep ≠ 0#32 →
    Spec.bitAt key 0 = false →
    ∃ t u v, exec (.encLoad true true 176#16 rep key) s = .next t ∧
      replay t.enc.eLen.toNat t = .next u ∧ u.dec.dstate = .cpl ∧
      u.enc.eCur = 0#9 ∧ u.enc.eRep.toNat = rep.toNat - 1 ∧
      exec (.pktParse .dec) u = .next v ∧ v.port.resp = Spec.parseReply key
end

