-- ==== Sys2Proof/Laws/Bytes.lean ====
section
/-! SUPPORT. Byte order and operand bytes: each reader undoes its writer (30_encoding.md rule R93). -/

namespace Sys2Proof

@[simp] theorem be16_bytes16 (v : BitVec 16) : be16 (v.extractLsb' 8 8) (v.extractLsb' 0 8) = v := by
  unfold be16
  rw [BitVec.extractLsb'_append_extractLsb'_eq_extractLsb' (by rfl)]
  exact BitVec.extractLsb'_eq_self

@[simp] theorem be32_bytes32 (v : BitVec 32) :
    be32 (v.extractLsb' 24 8) (v.extractLsb' 16 8) (v.extractLsb' 8 8) (v.extractLsb' 0 8) = v := by
  unfold be32
  rw [BitVec.extractLsb'_append_extractLsb'_eq_extractLsb' (by rfl),
    BitVec.extractLsb'_append_extractLsb'_eq_extractLsb' (by rfl),
    BitVec.extractLsb'_append_extractLsb'_eq_extractLsb' (by rfl)]
  exact BitVec.extractLsb'_eq_self

@[simp] theorem bytes16_be16 (a b : Byte) : bytes16 (be16 a b) = [a, b] := by
  simp only [bytes16, be16, List.cons.injEq, and_true]
  refine ⟨?_, ?_⟩ <;> apply BitVec.eq_of_getLsbD_eq <;> intro i hi <;>
    simp only [BitVec.getLsbD_extractLsb', BitVec.getLsbD_append, hi, decide_true, Bool.true_and]
  · rw [if_neg (by omega)]; congr 1; omega
  · rw [if_pos (by omega)]; congr 1; omega

@[simp] theorem bytes32_be32 (a b c d : Byte) : bytes32 (be32 a b c d) = [a, b, c, d] := by
  simp only [bytes32, be32, List.cons.injEq, and_true]
  refine ⟨?_, ?_, ?_, ?_⟩ <;> apply BitVec.eq_of_getLsbD_eq <;> intro i hi <;>
    simp only [BitVec.getLsbD_extractLsb', BitVec.getLsbD_append, hi, decide_true, Bool.true_and]
  · rw [if_neg (by omega), if_neg (by omega), if_neg (by omega)]; congr 1; omega
  · rw [if_neg (by omega), if_neg (by omega), if_pos (by omega)]; congr 1; omega
  · rw [if_neg (by omega), if_pos (by omega)]; congr 1; omega
  · rw [if_pos (by omega)]; congr 1; omega

@[simp] theorem readBit_bitToByte (b : Bool) : readBit (bitToByte b) = .ok b := by
  cases b <;> decide

@[simp] theorem readKind_toByte (k : Kind) : readKind k.toByte = .ok k := by
  cases k <;> decide

@[simp] theorem readMds_toByte (m : MdState) : readMds m.toByte = .ok m := by
  rcases m with ⟨_ | _, _ | _⟩ <;> decide

@[simp] theorem readMes_toByte (m : MeState) : readMes m.toByte = .ok m := by
  rcases m with ⟨_ | _ | _ | _, _ | _⟩ <;> decide

@[simp] theorem readKey_toList (k : Packet) : readKey k.toList = .ok k := by
  have h : k.toList.length = 22 := Vector.length_toList
  rw [readKey, dif_pos h]
  congr 1

/-- A key that is read is 22 bytes, in order. -/
theorem readKey_ok {l : List Byte} {k : Packet} (h : readKey l = .ok k) :
    k.toList = l ∧ l.length = 22 := by
  unfold readKey at h
  split at h
  · rename_i hl
    cases h
    exact ⟨rfl, hl⟩
  · cases h

/-- A one-bit byte that is read is the byte of its bit. -/
theorem readBit_ok {x : Byte} {b : Bool} (h : readBit x = .ok b) : bitToByte b = x := by
  revert x b
  decide

end Sys2Proof
end

