-- ==== Sys2Proof/Laws/Classifier.lean ====
section
/-! SUPPORT. The classifier's predicate as two inequalities (40_timing_classifier.md rule R123). -/

namespace Sys2Proof.Machine

/-- R120, R123: `matches(d, n)` is membership in an open interval around `n`. -/
theorem durMatches_iff (c : Config) (d n : Nat) :
    durMatches c d n = true ↔ d < n + c.teDelta.toNat ∧ n < d + c.teDelta.toNat := by
  unfold durMatches
  rw [decide_eq_true_iff]
  unfold absDiff
  split <;> omega

/-- R120, R123: a duration that does not match. -/
theorem durMatches_false_iff (c : Config) (d n : Nat) :
    durMatches c d n = false ↔ n + c.teDelta.toNat ≤ d ∨ d + c.teDelta.toNat ≤ n := by
  rw [← Bool.not_eq_true, durMatches_iff]
  omega

end Sys2Proof.Machine
end

