-- ==== Sys2Proof/Laws/LineCoder.lean ====
section
/-! SUPPORT. What the line-coder primitives can do, and that a generation never meets the corrupt
step (41_manchester.md rules R145, R153 to R158). -/

namespace Sys2Proof.Machine

/-- R145: a decoder advance with nothing pending. -/
theorem mdecAdvance_boundary (l : Level) (k : Kind) :
    mdecAdvance { pend := false, lvl := l } k =
      if isLong k then (mdecStart, .violation)
      else ({ pend := true, lvl := levelOf k }, .nothing) := by
  cases k <;> rfl

/-- R145: a decoder advance with a first half pending. -/
theorem mdecAdvance_pending (l : Level) (k : Kind) :
    mdecAdvance { pend := true, lvl := l } k =
      if levelOf k = l then (mdecStart, .violation)
      else (if isLong k then { pend := true, lvl := levelOf k } else mdecStart, .bit l) := by
  cases k <;> cases l <;> rfl

/-- R153 to R155: an advance from a step that is not corrupt answers, and its step is not corrupt. -/
theorem mencAdvance_ok (m : MeState) (w : Bool) (h : m.step ≠ .corrupt) :
    ∃ m' adv k, mencAdvance m w = some (m', adv, k) ∧ m'.step ≠ .corrupt := by
  unfold mencAdvance
  split
  · exact ⟨_, _, _, rfl, by simp⟩
  · split
    · exact ⟨_, _, _, rfl, by simp⟩
    · exact ⟨_, _, _, rfl, by simp⟩
  · exact ⟨_, _, _, rfl, by simp⟩
  · exact absurd ‹_› h

/-- R158: one bit by the caller's protocol, from the start: one kind. -/
theorem mencBit_start (p w : Bool) :
    mencBit { step := .start, prev := p } w =
      some ({ step := .halfOut, prev := w }, [shortKind (firstHalf w)]) := rfl

/-- R158: one bit by the caller's protocol, after another bit: two kinds where it is equal, one where
it differs. -/
theorem mencBit_halfOut (p w : Bool) :
    mencBit { step := .halfOut, prev := p } w =
      some ({ step := .halfOut, prev := w },
        if w = p then [shortKind (secondHalf p), shortKind (firstHalf w)]
        else [longKind (secondHalf p)]) := by
  cases p <;> cases w <;> rfl

end Sys2Proof.Machine
end

