-- ==== Sys2Proof/Laws/State.lean ====
section
/-! SUPPORT. One lemma per field per update of the state: what each state operation writes and what
it keeps. -/

namespace Sys2Proof.Machine

variable (s : State) (x : DecState) (st : Status) (payload : List Byte) (ready : Bool)
  (frame : List Byte)

/-! ## `answer` -/

@[simp] theorem answer_cfg : (answer st payload s).cfg = s.cfg := rfl
@[simp] theorem answer_dec : (answer st payload s).dec = s.dec := rfl
@[simp] theorem answer_prs : (answer st payload s).prs = s.prs := rfl
@[simp] theorem answer_enc : (answer st payload s).enc = s.enc := rfl
@[simp] theorem answer_freeTick : (answer st payload s).freeTick = s.freeTick := rfl
@[simp] theorem answer_inq : (answer st payload s).port.inq = s.port.inq := rfl
@[simp] theorem answer_resp : (answer st payload s).port.resp = statusByte st :: payload := rfl
@[simp] theorem answer_pktReady : (answer st payload s).port.pktReady = false := rfl

/-! ## `answerFeed` -/

@[simp] theorem answerFeed_cfg : (answerFeed ready s).cfg = s.cfg := rfl
@[simp] theorem answerFeed_dec : (answerFeed ready s).dec = s.dec := rfl
@[simp] theorem answerFeed_prs : (answerFeed ready s).prs = s.prs := rfl
@[simp] theorem answerFeed_enc : (answerFeed ready s).enc = s.enc := rfl
@[simp] theorem answerFeed_freeTick : (answerFeed ready s).freeTick = s.freeTick := rfl
@[simp] theorem answerFeed_inq : (answerFeed ready s).port.inq = s.port.inq := rfl
@[simp] theorem answerFeed_resp : (answerFeed ready s).port.resp = [0x00#8] := rfl
@[simp] theorem answerFeed_pktReady : (answerFeed ready s).port.pktReady = ready := rfl

/-! ## `idle` and `offerFrame` -/

@[simp] theorem idle_cfg : (idle s).cfg = s.cfg := rfl
@[simp] theorem idle_dec : (idle s).dec = s.dec := rfl
@[simp] theorem idle_prs : (idle s).prs = s.prs := rfl
@[simp] theorem idle_enc : (idle s).enc = s.enc := rfl
@[simp] theorem idle_freeTick : (idle s).freeTick = s.freeTick := rfl
@[simp] theorem idle_inq : (idle s).port.inq = s.port.inq := rfl
@[simp] theorem idle_resp : (idle s).port.resp = [] := rfl
@[simp] theorem idle_pktReady : (idle s).port.pktReady = false := rfl
@[simp] theorem offerFrame_cfg : (offerFrame frame s).cfg = s.cfg := rfl
@[simp] theorem offerFrame_dec : (offerFrame frame s).dec = s.dec := rfl
@[simp] theorem offerFrame_prs : (offerFrame frame s).prs = s.prs := rfl
@[simp] theorem offerFrame_enc : (offerFrame frame s).enc = s.enc := rfl
@[simp] theorem offerFrame_freeTick : (offerFrame frame s).freeTick = s.freeTick := rfl
@[simp] theorem offerFrame_inq : (offerFrame frame s).port.inq = frame :: s.port.inq := rfl

/-! ## `decoderReset` -/

@[simp] theorem decoderReset_dstate : (decoderReset x).dstate = .rst := rfl
@[simp] theorem decoderReset_dcnt : (decoderReset x).dcnt = 0#8 := rfl
@[simp] theorem decoderReset_dbuf : (decoderReset x).dbuf = Packet.zero := rfl
@[simp] theorem decoderReset_mdPend : (decoderReset x).mdPend = false := rfl
@[simp] theorem decoderReset_mdLvl : (decoderReset x).mdLvl = false := rfl
@[simp] theorem decoderReset_cbEn : (decoderReset x).cbEn = x.cbEn := rfl

/-! ## `raiseContractViolation` -/

@[simp] theorem raiseContractViolation_cfg : (raiseContractViolation s).cfg = s.cfg := rfl
@[simp] theorem raiseContractViolation_dec : (raiseContractViolation s).dec = s.dec := rfl
@[simp] theorem raiseContractViolation_prs : (raiseContractViolation s).prs = s.prs := rfl
@[simp] theorem raiseContractViolation_port : (raiseContractViolation s).port = s.port := rfl
@[simp] theorem raiseContractViolation_eFault : (raiseContractViolation s).enc.eFault = true := rfl
@[simp] theorem raiseContractViolation_eActive :
    (raiseContractViolation s).enc.eActive = false := rfl
@[simp] theorem raiseContractViolation_freeTick :
    (raiseContractViolation s).freeTick = s.freeTick + 1 := rfl

/-! ## `advanceCursor` and `loadedJob` -/

theorem advanceCursor_cases (e : EncState) :
    (e.eCur + 1#9 = e.eLen ∧
      advanceCursor e = { e with eCur := 0#9, eRep := e.eRep - 1#32 }) ∨
    (e.eCur + 1#9 ≠ e.eLen ∧ advanceCursor e = { e with eCur := e.eCur + 1#9 }) := by
  by_cases h : e.eCur + 1#9 = e.eLen
  · exact .inl ⟨h, by simp [advanceCursor, h]⟩
  · exact .inr ⟨h, by simp [advanceCursor, h]⟩

variable (e : EncState)

@[simp] theorem advanceCursor_eBuf : (advanceCursor e).eBuf = e.eBuf := by
  rcases advanceCursor_cases e with ⟨-, h⟩ | ⟨-, h⟩ <;> rw [h]
@[simp] theorem advanceCursor_eBits : (advanceCursor e).eBits = e.eBits := by
  rcases advanceCursor_cases e with ⟨-, h⟩ | ⟨-, h⟩ <;> rw [h]
@[simp] theorem advanceCursor_eLen : (advanceCursor e).eLen = e.eLen := by
  rcases advanceCursor_cases e with ⟨-, h⟩ | ⟨-, h⟩ <;> rw [h]
@[simp] theorem advanceCursor_eSym : (advanceCursor e).eSym = e.eSym := by
  rcases advanceCursor_cases e with ⟨-, h⟩ | ⟨-, h⟩ <;> rw [h]
@[simp] theorem advanceCursor_eActive : (advanceCursor e).eActive = e.eActive := by
  rcases advanceCursor_cases e with ⟨-, h⟩ | ⟨-, h⟩ <;> rw [h]
@[simp] theorem advanceCursor_meStep : (advanceCursor e).meStep = e.meStep := by
  rcases advanceCursor_cases e with ⟨-, h⟩ | ⟨-, h⟩ <;> rw [h]
@[simp] theorem advanceCursor_mePrev : (advanceCursor e).mePrev = e.mePrev := by
  rcases advanceCursor_cases e with ⟨-, h⟩ | ⟨-, h⟩ <;> rw [h]
@[simp] theorem advanceCursor_eFault : (advanceCursor e).eFault = e.eFault := by
  rcases advanceCursor_cases e with ⟨-, h⟩ | ⟨-, h⟩ <;> rw [h]

end Sys2Proof.Machine
end

