-- ==== Sys2Proof/Laws/Ops.lean ====
section
/-! SUPPORT. One lemma per shared operation that says once everything it can do. -/

namespace Sys2Proof.Machine

/-! ## Bits of a 22-byte store -/

/-- A byte ORed with one bit, bit by bit. -/
theorem orBit_getLsbD (a : Byte) (v : Bool) (p q : Nat) (hp : p < 8) (hq : q < 8) :
    (a ||| (bitToByte v <<< p)).getLsbD q = (a.getLsbD q || (decide (q = p) && v)) := by
  have key : ∀ (v : Bool) (p q : Fin 8),
      (bitToByte v <<< p.val).getLsbD q.val = (decide (q.val = p.val) && v) := by decide
  rw [BitVec.getLsbD_or]
  congr 1
  exact key v ⟨p, hp⟩ ⟨q, hq⟩

/-- R63: ORing a bit in at index `k` changes bit `k` only. -/
theorem bufBit_bufOrBit (b : Packet) (v : Bool) (k j : Nat) (hk : k < 176) (hj : j < 176) :
    bufBit (bufOrBit b k v) j = (bufBit b j || (decide (j = k) && v)) := by
  have hk8 : k / 8 < 22 := by omega
  have hj8 : j / 8 < 22 := by omega
  unfold bufBit bufOrBit
  by_cases h : k / 8 = j / 8
  · have hget : (b.setIfInBounds (k / 8)
        ((b[k / 8]?).getD 0#8 ||| (bitToByte v <<< (7 - k % 8))))[j / 8]? =
        some ((b[k / 8]?).getD 0#8 ||| (bitToByte v <<< (7 - k % 8))) := by
      rw [← h, Vector.getElem?_setIfInBounds_self_of_lt hk8]
    rw [hget, Option.getD_some, orBit_getLsbD _ _ _ _ (by omega) (by omega), h]
    congr 2
    simp only [decide_eq_decide]
    omega
  · rw [Vector.getElem?_setIfInBounds_ne h]
    have : j ≠ k := by rintro rfl; exact h rfl
    simp [this]

@[simp] theorem bufBit_zero (k : Nat) : bufBit Packet.zero k = false := by
  unfold bufBit Packet.zero
  by_cases h : k / 8 < 22 <;> simp [h]

/-- R63: what BufAppend does where it is defined. -/
theorem bufAppend_of_le (v : Bool) (x : DecState) (h : x.dcnt.toNat ≤ 175) :
    bufAppend v x =
      some { x with dbuf := bufOrBit x.dbuf x.dcnt.toNat v, dcnt := x.dcnt + 1#8 } := by
  simp [bufAppend, h]

/-- R63: BufAppend answers only where it is defined. -/
theorem bufAppend_some {v : Bool} {x y : DecState} (h : bufAppend v x = some y) :
    x.dcnt.toNat ≤ 175 ∧
      y = { x with dbuf := bufOrBit x.dbuf x.dcnt.toNat v, dcnt := x.dcnt + 1#8 } := by
  unfold bufAppend at h
  split at h
  · exact ⟨‹_›, (Option.some.inj h).symm⟩
  · cases h

/-! ## Symbol reads -/

/-- R65: a meaningful entry reads as stored, and reading it changes nothing. -/
theorem symRead_meaningful (s : State) (i : Nat) (hl : i < s.enc.eLen.toNat)
    (hs : i < s.enc.eSym.length) : symRead s i = some (s.enc.eSym[i], s) := by
  simp [symRead, hl, hs]

/-- Everything a symbol read can do: it keeps every component, and counts a free value if it used
one. -/
theorem symRead_some {s t : State} {i : Nat} {y : Symbol} (h : symRead s i = some (y, t)) :
    (t = s ∧ s.enc.eSym[i]? = some y) ∨
      (t = { s with freeTick := s.freeTick + 1 } ∧ y = Config.freeSymbol s.freeTick) := by
  unfold symRead at h
  split at h
  · rename_i hi
    simp only [Option.some.injEq, Prod.mk.injEq] at h
    obtain ⟨rfl, rfl⟩ := h
    exact .inl ⟨rfl, by simp [hi.2]⟩
  · split at h
    · simp only [Option.some.injEq, Prod.mk.injEq] at h
      exact .inr ⟨h.2.symm, h.1.symm⟩
    · cases h

/-! ## Completion -/

/-- R182: the two outcomes of a completed packet. -/
theorem packetComplete_cases (x : DecState) :
    (x.cbEn = true ∧ packetComplete x = ({ x with dstate := .cpl }, true)) ∨
      (x.cbEn = false ∧ packetComplete x = (decoderReset x, false)) := by
  cases h : x.cbEn
  · exact .inr ⟨rfl, by simp [packetComplete, h, decoderReset]⟩
  · exact .inl ⟨rfl, by simp [packetComplete, h]⟩

/-! ## The port -/

@[simp] theorem fetch_nil {s : State} (h : s.port.inq = []) : fetch s = none := by
  simp [fetch, h]

@[simp] theorem fetch_cons {s : State} {f : List Byte} {rest : List (List Byte)}
    (h : s.port.inq = f :: rest) :
    fetch s = some (f, { s with port := { s.port with inq := rest } }) := by
  simp [fetch, h]

/-- What `withFetchWord` offers is what the next step takes, from the same state. -/
@[simp] theorem fetch_offerFrame (f : List Byte) (s : State) :
    fetch (offerFrame f s) = some (f, s) := rfl

end Sys2Proof.Machine
end

