-- ==== Sys2Proof/Laws/PerInstr.lean ====
section
/-! SUPPORT. A statement about every operation as syntax, made per constructor: the length of its
frame is the one the opcode fixes (30_encoding.md rules R91, R99). -/

namespace Sys2Proof.Laws

/-- R93: `len` on one byte loses nothing of a length up to 255. -/
theorem len_toNat {data : List Byte} (h : crcDataOk data = true) :
    (BitVec.ofNat 8 data.length).toNat = data.length := by
  have : data.length ≤ 255 := by simpa [crcDataOk] using h
  simp only [BitVec.toNat_ofNat]
  omega

end Sys2Proof.Laws

namespace Sys2Proof.Laws.FrameLength

/-- R91, R99: the frame of a well-formed operation has the length that its bytes 0, 1 and 3 fix. -/
def Statement (i : Instr) : Prop :=
  i.wellFormed = true →
    (encode i).length =
      frameLength i.opcode (((encode i)[1]?).getD 0#8) (((encode i)[3]?).getD 0#8)

theorem matchDur (d n : Duration) : Statement (.matchDur d n) := fun _ => rfl
theorem mdecReset : Statement .mdecReset := fun _ => rfl
theorem mdecAdv (mds : MdState) (kind : Kind) : Statement (.mdecAdv mds kind) := fun _ => rfl
theorem mencReset : Statement .mencReset := fun _ => rfl
theorem mencAdv (mes : MeState) (bit : Bool) : Statement (.mencAdv mes bit) := fun _ => rfl
theorem mencFinish (mes : MeState) : Statement (.mencFinish mes) := fun _ => rfl
theorem decReset : Statement .decReset := fun _ => rfl
theorem decFeed (level : Level) (d : Duration) : Statement (.decFeed level d) := fun _ => rfl
theorem decSetcb (en : Bool) : Statement (.decSetcb en) := fun _ => rfl

theorem crc8Msb (poly init : Byte) (data : List Byte) : Statement (.crc8Msb poly init data) := by
  intro h
  have hl := len_toNat (data := data) h
  simp only [encode, Instr.operandBytes, Instr.opcode, List.length_cons, List.getElem?_cons_succ,
    List.getElem?_cons_zero, Option.getD_some]
  show data.length + 4 = 4 + (BitVec.ofNat 8 data.length).toNat
  omega

theorem crc8Lsb (poly init : Byte) (data : List Byte) : Statement (.crc8Lsb poly init data) := by
  intro h
  have hl := len_toNat (data := data) h
  simp only [encode, Instr.operandBytes, Instr.opcode, List.length_cons, List.getElem?_cons_succ,
    List.getElem?_cons_zero, Option.getD_some]
  show data.length + 4 = 4 + (BitVec.ofNat 8 data.length).toNat
  omega

theorem pktParse (src : PktSrc) : Statement (.pktParse src) := by
  intro _
  cases src with
  | dec => rfl
  | buf key => simp [encode, Instr.operandBytes, Instr.opcode, frameLength]

theorem pktSerialize : Statement .pktSerialize := fun _ => rfl

theorem encLoad (keyValid repValid : Bool) (bitCount : BitVec 16) (rep : RepCount) (key : Packet) :
    Statement (.encLoad keyValid repValid bitCount rep key) := by
  intro _
  simp [encode, Instr.operandBytes, Instr.opcode, frameLength, bytes16, bytes32]

theorem encYield : Statement .encYield := fun _ => rfl
theorem encStop : Statement .encStop := fun _ => rfl

end Sys2Proof.Laws.FrameLength
end

