-- ==== Sys2Proof/Laws/Step.lean ====
section
/-! SUPPORT. Everything one step can do. -/

namespace Sys2Proof.Machine

/-- A step that goes on is idle, answers an illegal frame, or runs the decoded operation. -/
theorem step_next_cases {s t : State} (h : step s = .next t) :
    (s.port.inq = [] ∧ t = idle s) ∨
    (∃ f rest e, s.port.inq = f :: rest ∧ decode f = .error e ∧
      t = answerIllegal { s with port := { s.port with inq := rest } }) ∨
    (∃ f rest i, s.port.inq = f :: rest ∧ decode f = .ok i ∧
      exec i { s with port := { s.port with inq := rest } } = .next t) := by
  cases hq : s.port.inq with
  | nil =>
    simp only [step, fetch_nil hq, Host.Outcome.next.injEq] at h
    exact .inl ⟨rfl, h.symm⟩
  | cons f rest =>
    simp only [step, fetch_cons hq] at h
    cases hd : decode f with
    | ok i =>
      simp only [hd] at h
      exact .inr (.inr ⟨f, rest, i, rfl, hd, h⟩)
    | error e =>
      simp only [hd, Host.Outcome.next.injEq] at h
      exact .inr (.inl ⟨f, rest, e, rfl, hd, h.symm⟩)

/-- A step on a word of the operation table runs the instruction the decoder reads from it, in the
state the word was offered to. -/
theorem step_withFetchWord {s : State} {nbits w : Nat} {i : Instr}
    (h : decodeTableWord nbits w = some i) : step (s.withFetchWord nbits w) = exec i s := by
  unfold decodeTableWord at h
  cases hd : decode (tableFrame nbits w) with
  | ok j =>
    simp only [hd, Option.some.injEq] at h
    subst h
    simp [step, State.withFetchWord, hd]
  | error e => simp [hd] at h

end Sys2Proof.Machine
end

