-- ==== Sys2Proof/Tests/Slice0.lean ====
section
/-! SUPPORT. Tests: the operands WellFormed refuses, frames written out from rules R91 to R93, one-step
vectors of 95_test_vectors.md, and for every obligation with hypotheses a state and operands that meet
all of them. -/

namespace Sys2Proof.Tests

open Sys2Proof.Machine

set_option maxRecDepth 20000

/-! ## Helpers -/

/-- PKT_A of 95_test_vectors.md. -/
def pktA : Packet :=
  #v[0x50#8, 0x12#8, 0x34#8, 0x56#8, 0x78#8, 0x01#8, 0x23#8, 0x45#8, 0x67#8, 0x89#8, 0xAB#8, 0xCD#8,
    0xEF#8, 0xFE#8, 0xDC#8, 0xBA#8, 0x98#8, 0x76#8, 0x54#8, 0x32#8, 0x10#8, 0x9E#8]

/-- PKT_B of 95_test_vectors.md. -/
def pktB : Packet := (pktA.set 0 0x70#8).set 21 0xBB#8

/-- PKT_U of 95_test_vectors.md: an unknown type. -/
def pktU : Packet := (pktA.set 0 0x20#8).set 21 0x00#8

/-- PKT_M of 95_test_vectors.md: its first stored bit is 1. -/
def pktM : Packet := pktA.set 0 0xA0#8

/-- The block after reset, with the example configuration E1. -/
def fresh : State := State.resetWith Config.e1

/-- `fresh` with another decoder state. -/
def decoderAt (ds : DState) (dcnt : Byte) (buf : Packet) (pend lvl cb : Bool) : State :=
  { fresh with
    dec := { dstate := ds, dcnt := dcnt, dbuf := buf, mdPend := pend, mdLvl := lvl, cbEn := cb } }

/-- PKT_A without its last bits: byte 21 is 0x9C, as after 174 bits (V-FSM-10). -/
def pktA174 : Packet := pktA.set 21 0x9C#8

/-- The decoder of V-FSM-11, at 175 bits, with or without a receiver. -/
def at175 (cb : Bool) : State := decoderAt .fd 175#8 pktA true false cb

/-- The decoder of V-FSM-10, at 174 bits. -/
def at174 : State := decoderAt .fd 174#8 pktA174 true true true

/-- A held packet. -/
def heldA : State := decoderAt .cpl 176#8 pktA false false true

/-- Two symbols, for a job small enough to write out. -/
def twoSymbols : List Symbol :=
  [{ level := false, duration := 312#32 }, { level := true, duration := 208#32 }]

/-- `fresh` with a two-symbol job. -/
def jobAt (cur : BitVec 9) (rep : RepCount) : State :=
  { fresh with
    enc := { EncState.reset with
      eSym := twoSymbols, eLen := 2#9, eCur := cur, eRep := rep, eActive := true } }

/-- `fresh` with the encoder fault set. -/
def faulted : State := { fresh with enc := { EncState.reset with eFault := true } }

/-- `s` with these frames waiting. -/
def sent (fs : List (List Byte)) (s : State) : State := { s with port := { s.port with inq := fs } }

/-- The state after one operation. -/
def after (i : Instr) (s : State) : State :=
  match exec i s with
  | .next t => t
  | .fault _ => s
  | .refused _ => s

/-- The response frame of one operation. -/
def reply (i : Instr) (s : State) : List Byte := (after i s).port.resp

/-! ## WellFormed -/

theorem test_wf_crc8Msb_256_refused :
    (Instr.crc8Msb 7#8 0#8 (List.replicate 256 0#8)).wellFormed = false := by decide
theorem test_wf_crc8Lsb_256_refused :
    (Instr.crc8Lsb 7#8 0#8 (List.replicate 256 0#8)).wellFormed = false := by decide
theorem test_wf_crc8Msb_255 :
    (Instr.crc8Msb 7#8 0#8 (List.replicate 255 0#8)).wellFormed = true := by decide

/-! ## Frames, written out from R91 to R93 -/

theorem test_decode_match : decode [0x10#8, 0#8, 0#8, 1#8, 0x37#8, 0#8, 0#8, 0#8, 0xD0#8] =
    .ok (.matchDur 311#32 208#32) := by decide
theorem test_decode_mdecReset : decode [0x20#8] = .ok .mdecReset := by decide
theorem test_decode_mdecAdv :
    decode [0x21#8, 2#8, 3#8] = .ok (.mdecAdv { pend := true, lvl := false } .lh) := by decide
theorem test_decode_mencReset : decode [0x24#8] = .ok .mencReset := by decide
theorem test_decode_mencAdv :
    decode [0x25#8, 6#8, 1#8] = .ok (.mencAdv { step := .corrupt, prev := false } true) := by decide
theorem test_decode_mencFinish :
    decode [0x26#8, 5#8] = .ok (.mencFinish { step := .cellOut, prev := true }) := by decide
theorem test_decode_decReset : decode [0x30#8] = .ok .decReset := by decide
theorem test_decode_decFeed :
    decode [0x31#8, 1#8, 0#8, 0#8, 6#8, 0x80#8] = .ok (.decFeed true 1664#32) := by decide
theorem test_decode_decSetcb : decode [0x32#8, 1#8] = .ok (.decSetcb true) := by decide
theorem test_decode_crc8Msb :
    decode [0x40#8, 7#8, 0#8, 2#8, 0x12#8, 0x34#8] = .ok (.crc8Msb 7#8 0#8 [0x12#8, 0x34#8]) := by
  decide
theorem test_decode_crc8Lsb :
    decode [0x41#8, 7#8, 0xFF#8, 0#8] = .ok (.crc8Lsb 7#8 0xFF#8 []) := by decide
theorem test_decode_pktParse_dec : decode [0x42#8, 0#8] = .ok (.pktParse .dec) := by decide
theorem test_decode_pktParse_buf :
    decode (0x42#8 :: 1#8 :: pktA.toList) = .ok (.pktParse (.buf pktA)) := by decide
theorem test_decode_pktSerialize : decode [0x43#8] = .ok .pktSerialize := by decide
theorem test_decode_encLoad :
    decode ([0x50#8, 2#8, 0#8, 0xAF#8, 1#8, 2#8, 3#8, 4#8] ++ pktB.toList) =
      .ok (.encLoad false true 175#16 0x01020304#32 pktB) := by decide
theorem test_decode_encYield : decode [0x51#8] = .ok .encYield := by decide
theorem test_decode_encStop : decode [0x52#8] = .ok .encStop := by decide
theorem test_encode_encLoad : encode (.encLoad true true 176#16 2#32 pktA) =
    [0x50#8, 3#8, 0#8, 0xB0#8, 0#8, 0#8, 0#8, 2#8] ++ pktA.toList := by decide

/-- V-ENC-8 and R98: each way a frame can be illegal. -/
theorem test_decode_illegal :
    decode [0x11#8] = .error .undefinedOpcode ∧ decode [0x51#8, 0#8] = .error .wrongLength ∧
    decode [0x32#8, 2#8] = .error .mustBeZero ∧
    decode [0x31#8, 2#8, 0#8, 0#8, 0#8, 0xD0#8] = .error .mustBeZero ∧
    decode [0x42#8, 1#8, 0#8] = .error .wrongLength ∧ decode [] = .error .wrongLength := by decide

/-- The words of the operation table, operand bytes zero. -/
theorem test_table_words :
    decodeTableWord 8 0x10 = some (.matchDur 0#32 0#32) ∧
    decodeTableWord 8 0x42 = some (.pktParse .dec) ∧
    decodeTableWord 8 0x41 = some (.crc8Lsb 0#8 0#8 []) ∧
    decodeTableWord 8 0x50 = some (.encLoad false false 0#16 0#32 Packet.zero) ∧
    decodeTableWord 24 0x030225 = none ∧ decodeTableWord 8 0x53 = none := by decide

/-! ## One-step vectors of 95_test_vectors.md -/

/-- V-MATCH-1. -/
theorem test_match_vectors :
    reply (.matchDur 311#32 208#32) fresh = [0#8, 1#8] ∧
    reply (.matchDur 312#32 208#32) fresh = [0#8, 0#8] ∧
    reply (.matchDur 104#32 208#32) fresh = [0#8, 0#8] ∧
    reply (.matchDur 0xFFFFFFFF#32 208#32) fresh = [0#8, 0#8] ∧
    reply (.matchDur 0#32 50#32) fresh = [0#8, 1#8] := by decide

/-- V-MDEC-1, V-MDEC-4. -/
theorem test_mdec_vectors :
    reply .mdecReset fresh = [0#8, 0#8] ∧
    reply (.mdecAdv { pend := true, lvl := false } .lh) fresh = [0#8, 3#8, 2#8] ∧
    reply (.mdecAdv { pend := true, lvl := true } .sh) fresh = [0#8, 0#8, 1#8] ∧
    reply (.mdecAdv { pend := false, lvl := true } .sl) fresh = [0#8, 2#8, 0#8] := by decide

/-- V-MENC-2, V-MENC-3. -/
theorem test_menc_vectors :
    reply .mencReset fresh = [0#8, 0#8] ∧
    reply (.mencAdv { step := .halfOut, prev := true } false) fresh = [0#8, 2#8, 1#8, 3#8] ∧
    reply (.mencAdv { step := .halfOut, prev := true } true) fresh = [0#8, 5#8, 0#8, 1#8] ∧
    reply (.mencAdv { step := .corrupt, prev := false } false) fresh = [5#8] ∧
    reply (.mencFinish { step := .halfOut, prev := true }) fresh = [0#8, 1#8, 1#8] := by decide

/-- V-MENC-1, the last row: wire bits 1 1 0 0 1. -/
theorem test_menc_stream :
    (mencBits mencStart [true, true, false, false, true]).map (fun a => a.2) =
      some [.sl, .sh, .sl, .lh, .sl, .sh, .ll] := by decide

/-- V-FSM-1 to V-FSM-4. -/
theorem test_feed_states :
    (after (.decFeed false 312#32) fresh).dec.dstate = .pas ∧
    (after (.decFeed false 416#32) fresh).dec.dstate = .rst ∧
    (after (.decFeed true 1664#32) (decoderAt .pas 0#8 Packet.zero false false false)).dec.dstate
      = .phvl ∧
    (after (.decFeed false 312#32) (decoderAt .pas 0#8 Packet.zero false false false)).dec.dstate
      = .rst ∧
    (after (.decFeed false 416#32) (decoderAt .phvl 0#8 Packet.zero false false false)).dec.dstate
      = .pal ∧
    (after (.decFeed false 208#32) (decoderAt .pal 0#8 Packet.zero false false false)).dec =
      (decoderAt .fd 0#8 Packet.zero true false false).dec := by decide

/-- V-FSM-11 and V-FSM-12: the last edge. -/
theorem test_feed_terminal :
    (after (.decFeed true 831#32) (at175 true)).dec = heldA.dec ∧
    (after (.decFeed true 831#32) (at175 true)).port.pktReady = true ∧
    (after (.decFeed true 832#32) (at175 true)).dec.dstate = .rst ∧
    (after (.decFeed true 728#32) (at175 false)).dec = DecState.reset := by decide

/-- V-FSM-13. -/
theorem test_held_reset :
    (after (.decFeed false 312#32) heldA).dec = heldA.dec ∧
    (after .decReset heldA).dec = { DecState.reset with cbEn := true } ∧
    (after (.decSetcb false) heldA).dec = { heldA.dec with cbEn := false } := by decide

/-- V-CRC-2 and V-CRC-4: the nine ASCII digits. -/
theorem test_crc_digits :
    crc8MsbOf 0x07#8 0x00#8 [0x31#8, 0x32#8, 0x33#8, 0x34#8, 0x35#8, 0x36#8, 0x37#8, 0x38#8, 0x39#8]
      = 0xF4#8 ∧
    crc8LsbOf 0x31#8 0x00#8 [0x31#8, 0x32#8, 0x33#8, 0x34#8, 0x35#8, 0x36#8, 0x37#8, 0x38#8, 0x39#8]
      = 0xA1#8 := by decide

/-- V-CRC-1, V-CRC-3: the answers. -/
theorem test_crc_answers :
    reply (.crc8Msb 7#8 0#8 [0x12#8]) fresh = [0#8, 0x7E#8] ∧
    reply (.crc8Lsb 7#8 0xFF#8 [0x70#8]) fresh = [0#8, 0x9B#8] := by decide

/-- V-CRC-5 to V-CRC-10: the selector. -/
theorem test_crc_select :
    crcSelect pktA = { known := true, value := 0x9E#8, ok := true } ∧
    crcSelect pktB = { known := true, value := 0xBB#8, ok := true } ∧
    crcSelect pktU = { known := false, value := 0x00#8, ok := false } ∧
    crcSelect (pktA.set 0 0x70#8) = { known := true, value := 0xBB#8, ok := false } := by decide

/-- V-PARSE-1: the answer frame of PKT_PARSE with PKT_A. -/
theorem test_parse_answer :
    reply (.pktParse (.buf pktA)) fresh = 0#8 :: (pktA.toList ++ [0x9E#8, 0x03#8]) := by decide

/-- V-PARSE-1, V-PARSE-2, V-FSM-12: PKT_SERIALIZE after and before a parse, PKT_PARSE without a held
packet. -/
theorem test_serialize :
    reply .pktSerialize (after (.pktParse (.buf pktA)) fresh) =
      0#8 :: 0#8 :: 0xB0#8 :: pktA.toList ∧
    reply .pktSerialize fresh = [3#8] ∧ reply (.pktParse .dec) fresh = [3#8] := by decide

/-- V-PARSE-3: the summary's values and widths. -/
theorem test_summary :
    summaryValues (parsed pktA) = [(0x9E, 4), (0x50, 8), (0x12345678, 8),
      (0x0123456789ABCDEF, 16), (0xFEDCBA9876543210, 16)] := by decide

/-- V-ENC-1 to V-ENC-3: lengths, first symbols and closing symbols. -/
theorem test_sequence_lengths :
    (genSymbols Config.e1 pktA).map (fun a => (a.2.length, a.2[47]?, a.2[311]?)) =
      some (312, some { level := true, duration := 416#32 },
        some { level := true, duration := 728#32 }) ∧
    (genSymbols Config.e1 pktB).map (fun a => (a.2.length, a.2[41]?, a.2[312]?)) =
      some (313, some { level := true, duration := 1664#32 },
        some { level := false, duration := 728#32 }) := by decide

/-- V-ENC-5: the load failures. -/
theorem test_load_failures :
    reply (.encLoad true true 175#16 2#32 pktB) fresh = [1#8] ∧
    reply (.encLoad false true 176#16 2#32 pktB) fresh = [2#8] ∧
    reply (.encLoad false true 100#16 1#32 Packet.zero) fresh = [1#8] := by decide

/-- P1, first yield, and R245 at the end of the sequence. -/
theorem test_yield_symbol :
    reply .encYield (jobAt 0#9 2#32) = [0#8, 1#8, 0#8, 0#8, 0#8, 1#8, 0x38#8] ∧
    (after .encYield (jobAt 0#9 2#32)).enc.eCur = 1#9 ∧
    (after .encYield (jobAt 1#9 2#32)).enc = (jobAt 0#9 1#32).enc := by decide

/-- V-ENC-6, P3 step 5. -/
theorem test_yield_end_and_stop :
    reply .encYield fresh = [0#8, 0#8, 0#8, 0#8, 0#8, 0#8, 0#8] ∧
    (after .encStop (jobAt 1#9 2#32)).enc = { (jobAt 1#9 2#32).enc with eActive := false } := by
  decide

/-- R98: a frame of an undefined opcode through the whole step. -/
theorem test_step_illegal :
    step (sent [[0x53#8], [0x20#8]] fresh) =
      .next { sent [[0x20#8]] fresh with
        port := { inq := [[0x20#8]], resp := [4#8], pktReady := false } } := rfl

/-- The first operation after reset, through the whole step. -/
theorem test_step_after_reset :
    step (State.reset.withFetchWord 8 0x32) =
      .next { State.reset with port := { inq := [], resp := [0#8], pktReady := false } } := rfl

/-! ## Witnesses: concrete states and operands that meet all the hypotheses of an obligation -/

theorem test_witness_DecodeOfEncode :
    (Instr.crc8Lsb 7#8 0#8 (List.replicate 255 1#8)).wellFormed = true ∧
    (Instr.encLoad true false 0xFFFF#16 0xFFFFFFFF#32 pktA).wellFormed = true := by decide

theorem test_witness_EncodeOfDecode :
    decode [0x26#8, 7#8] = .ok (.mencFinish { step := .corrupt, prev := true }) := by decide

theorem test_witness_IllegalFrameAnswered :
    (sent [[], [0x20#8]] fresh).port.inq = [] :: [[0x20#8]] ∧ Spec.legalFrame [] = false ∧
    Spec.legalFrame [0x53#8] = false ∧ Spec.legalFrame [0x51#8, 0#8] = false ∧
    Spec.legalFrame [0x21#8, 4#8, 0#8] = false ∧ Spec.legalFrame [0x42#8, 1#8] = false := by decide

theorem test_witness_StepRunsDecoded :
    (sent [[0x32#8, 1#8], [0x51#8]] fresh).port.inq = [0x32#8, 1#8] :: [[0x51#8]] ∧
    decode [0x32#8, 1#8] = .ok (.decSetcb true) ∧ fresh.port.inq = [] := by decide

theorem test_witness_InvariantAtReset : Config.e1.WellFormed ∧ Config.e2.WellFormed := by decide

theorem test_witness_Inv : Inv heldA ∧ Inv (sent [[0x31#8, 0#8, 0#8, 0#8, 1#8, 0x38#8]] fresh) :=
  ⟨by decide, by decide⟩

theorem test_witness_InvariantKept :
    step (sent [[0x30#8]] heldA) =
      .next { after .decReset heldA with
        port := { inq := [], resp := [0#8], pktReady := false } } := rfl

/-- One state change for each clause. -/
theorem test_witness_WriteSets :
    exec (.decSetcb true) fresh = .next (after (.decSetcb true) fresh) ∧
    (after (.decSetcb true) fresh).dec.cbEn ≠ fresh.dec.cbEn ∧
    exec (.decFeed false 312#32) fresh = .next (after (.decFeed false 312#32) fresh) ∧
    (after (.decFeed false 312#32) fresh).dec ≠ fresh.dec ∧
    exec (.pktParse (.buf pktA)) fresh = .next (after (.pktParse (.buf pktA)) fresh) ∧
    (after (.pktParse (.buf pktA)) fresh).prs ≠ fresh.prs :=
  ⟨rfl, by decide, rfl, by decide, rfl, by decide⟩

/-- A load changes the encoder and sets `E_ACTIVE`. -/
theorem test_witness_WriteSets_load :
    exec (.encLoad true true 176#16 2#32 pktA) fresh =
      .next (after (.encLoad true true 176#16 2#32 pktA) fresh) ∧
    (after (.encLoad true true 176#16 2#32 pktA) fresh).enc.eBuf ≠ fresh.enc.eBuf ∧
    (after (.encLoad true true 176#16 2#32 pktA) fresh).enc.eActive = true := by
  refine ⟨rfl, ?_, rfl⟩
  decide

theorem test_witness_SidesCommute :
    side (.decFeed true 728#32) = .decoder ∧ side .encYield = .encoder ∧
    exec (.decFeed true 728#32) (at175 true) = .next (after (.decFeed true 728#32) (at175 true)) ∧
    exec .encYield (after (.decFeed true 728#32) (at175 true)) =
      .next (after .encYield (after (.decFeed true 728#32) (at175 true))) := ⟨rfl, rfl, rfl, rfl⟩

theorem test_witness_PureOperationsLeaveNoTrace :
    side (.matchDur 1#32 2#32) = .pure ∧ heldA.cfg = fresh.cfg := by decide

theorem test_witness_PulseExactlyAtCompletion :
    exec (.decFeed true 728#32) (at175 true) = .next (after (.decFeed true 728#32) (at175 true)) ∧
    (after (.decFeed true 728#32) (at175 true)).port.pktReady = true := ⟨rfl, rfl⟩

theorem test_witness_BufAppendSetsOneBit :
    (at175 true).dec.dcnt.toNat ≤ 175 ∧
    (∀ k, k < 176 → (at175 true).dec.dcnt.toNat ≤ k →
      Spec.bitAt (at175 true).dec.dbuf k = false) ∧
    fresh.dec.dcnt.toNat ≤ 175 := by decide

theorem test_witness_StoreReadsBigEndian :
    175 < 176 ∧ 18 + 4 ≤ 22 ∧ 14 + 8 ≤ 22 ∧ 0 + 8 ≤ 22 := by decide

/-- Both kinds of nominal: from `TE_DELTA` up, and below it. -/
theorem test_witness_MatchBoundary :
    1 ≤ Config.e1.teDelta.toNat ∧ Config.e1.teDelta.toNat ≤ 104 ∧
    ¬ Config.e1.teDelta.toNat ≤ 103 := by decide

theorem test_witness_Separated : Config.e1.Separated ∧ Config.e2.Separated := by decide

theorem test_witness_MdecAdvFollowsTable :
    (true, false, Kind.lh, true, true, 2#8) ∈ Spec.mdecTable ∧
    (false, true, Kind.lh, false, false, 1#8) ∈ Spec.mdecTable := by decide

theorem test_witness_MencFinishAnswers :
    (MeStep.cellOut, 2) ∈ [(MeStep.start, 0), (MeStep.halfOut, 1), (MeStep.cellOut, 2)] ∧
    mencAdvance { step := .halfOut, prev := true } true =
      some ({ step := .cellOut, prev := true }, false, .sh) ∧
    mencFlush { step := .cellOut, prev := true } = some ({ step := .start, prev := true }, .sh) := by
  decide

/-- R62 and V-FSM-5: the first appended bits of PKT_A, 0 then 1, are the top bits of byte 0. -/
theorem test_bit_order :
    (bufOrBit Packet.zero 1 true)[0] = 0x40#8 ∧ (bufOrBit Packet.zero 8 true)[1] = 0x80#8 ∧
    bufBit pktA 1 = true ∧ bufBit pktA 0 = false ∧ bufBit pktB 175 = true := by decide

/-- For EncodeStreamProperty and LineCoderInverse. -/
theorem test_witness_wire_bits : [true] ≠ [] ∧ [false, true, true] ≠ [] := by decide

theorem test_witness_FeedInReset : fresh.dec.dstate = .rst := by decide

theorem test_witness_FeedInPreamble :
    (decoderAt .pas 0#8 Packet.zero false false false).dec.dstate = .pas := by decide

theorem test_witness_FeedInMarker :
    (decoderAt .phvl 0#8 Packet.zero false false false).dec.dstate = .phvl := by decide

theorem test_witness_FeedInSync :
    (decoderAt .pal 0#8 Packet.zero false false false).dec.dstate = .pal := by decide

/-- Both clauses, at 175 bits and at 174, where the terminal window is closed. -/
theorem test_witness_FeedDataClassifies :
    (at175 true).dec.dstate = .fd ∧ Spec.dataKind Config.e1 175 true 831#32 = some .sh ∧
    Spec.dataKind Config.e1 175 true 832#32 = none ∧ at174.dec.dstate = .fd ∧
    Spec.dataKind Config.e1 174 false 728#32 = none ∧
    Spec.dataKind Config.e1 174 false 416#32 = some .ll := by decide

/-- The four clauses, first through DEC_FEED, then for the line-coder step alone. -/
theorem test_witness_FeedDataLineCoder :
    (decoderAt .fd 5#8 Packet.zero false false true).dec.dstate = .fd ∧
    (decoderAt .fd 5#8 Packet.zero false false true).dec.mdPend = false ∧
    Spec.dataKind Config.e1 5 false 519#32 = some .ll ∧
    Spec.dataKind Config.e1 5 true 311#32 = some .sh ∧
    at174.dec.dstate = .fd ∧ at174.dec.mdPend = true ∧ at174.dec.mdLvl = true ∧
    Spec.dataKind Config.e1 174 true 208#32 = some .sh ∧
    Spec.dataKind Config.e1 174 false 208#32 = some .sl ∧
    levelOf .lh = at174.dec.mdLvl ∧ levelOf .ll ≠ at174.dec.mdLvl := by decide

/-- V-FSM-7: a long at a cell boundary resets the decoder; and V-FSM-5: a first half is kept. -/
theorem test_feed_line_coder :
    (after (.decFeed false 416#32) (decoderAt .fd 5#8 Packet.zero false false true)).dec =
      { DecState.reset with cbEn := true } ∧
    (after (.decFeed false 208#32) (decoderAt .fd 5#8 Packet.zero false false true)).dec =
      (decoderAt .fd 5#8 Packet.zero true false true).dec := by decide

theorem test_witness_FeedDataAppends :
    at174.dec.dstate = .fd ∧ at174.dec.dcnt.toNat < 175 ∧
    (∀ j, j < 176 → at174.dec.dcnt.toNat ≤ j → Spec.bitAt at174.dec.dbuf j = false) ∧
    Spec.dataKind at174.cfg at174.dec.dcnt.toNat false 416#32 = some .ll ∧
    at174.dec.mdPend = true ∧ at174.dec.mdLvl ≠ false := by decide

/-- With and without a receiver. -/
theorem test_witness_FeedDataCompletes :
    ∀ cb, (at175 cb).dec.dstate = .fd ∧ (at175 cb).dec.dcnt.toNat = 175 ∧
      Spec.bitAt (at175 cb).dec.dbuf 175 = false ∧
      Spec.dataKind (at175 cb).cfg 175 true 728#32 = some .sh ∧ (at175 cb).dec.mdPend = true ∧
      (at175 cb).dec.mdLvl ≠ true ∧ (at175 cb).dec.cbEn = cb := by decide

theorem test_witness_HeldPacketIgnoresEdges : heldA.dec.dstate = .cpl ∧ twoSymbols ≠ [] := by decide

/-- For EdgesNeverFail. -/
theorem test_witness_DecInv : DecInv (at175 true).dec ∧ DecInv heldA.dec ∧ DecInv at174.dec :=
  ⟨by decide, by decide, by decide⟩

/-- For CrcMsbAnswers and CrcLsbAnswers. -/
theorem test_witness_crc_data : (List.replicate 255 0xFF#8).length ≤ 255 := by decide

/-- Both variants, and the boundary bits of each clause. -/
theorem test_witness_SingleBitErrorDetected :
    (crcSelect pktA).ok = true ∧ (crcSelect pktB).ok = true ∧ 0 < 8 ∧ 2 < 8 ∧ 7 < 8 ∧ 8 ≤ 8 ∧
    175 < 176 := by decide

theorem test_witness_ParseDecoder : heldA.dec.dstate = .cpl ∧ (at175 true).dec.dstate ≠ .cpl := by
  decide

theorem test_witness_SerializeAnswers :
    (after (.pktParse (.buf pktA)) fresh).prs.pValid = true ∧ fresh.prs.pValid = false := by decide

/-- For LoadRejects, LoadAccepts and ContractViolationUnreachable. -/
theorem test_witness_loads :
    fresh.enc.eFault = false ∧ (175#16 : BitVec 16) ≠ 176#16 ∧ (177#16 : BitVec 16) ≠ 176#16 := by
  decide

theorem test_witness_ContractViolationUnreachable :
    (jobAt 1#9 1#32).enc.eFault = false ∧
    exec .encYield (jobAt 1#9 1#32) = .next (after .encYield (jobAt 1#9 1#32)) := ⟨rfl, rfl⟩

/-- For SequenceFrame and OnAirLength: the smallest configuration and E1; the last repetition. -/
theorem test_witness_sequences :
    ({ teShort := 2#32, teLong := 4#32, teDelta := 1#32, repeatDefault := 0#32 } :
      Config).WellFormed ∧ Config.e1.WellFormed ∧ 20 ≤ 20 := by decide

/-- Each way to the sentinel. -/
theorem test_witness_YieldSentinel :
    (jobAt 0#9 0#32).enc.eFault = false ∧ (jobAt 0#9 0#32).enc.eRep = 0#32 ∧
    (after .encStop (jobAt 1#9 2#32)).enc.eFault = false ∧
    (after .encStop (jobAt 1#9 2#32)).enc.eActive = false := by decide

/-- Inside the sequence and at its end; RepeatLaw starts from the first. -/
theorem test_witness_jobRunning :
    Spec.jobRunning (jobAt 0#9 2#32).enc ∧ Spec.jobRunning (jobAt 1#9 1#32).enc ∧
    (jobAt 0#9 2#32).enc.eRep ≠ 0#32 ∧ (jobAt 1#9 1#32).enc.eRep ≠ 0#32 ∧
    (jobAt 0#9 2#32).enc.eCur = 0#9 ∧
    ∀ i ∈ [Instr.encYield, Instr.encStop], i = .encYield ∨ i = .encStop := by
  unfold Spec.jobRunning
  decide

theorem test_witness_EncoderFaultSticky :
    faulted.enc.eFault = true ∧ side (.decSetcb true) ≠ .encoder ∧
    exec (.decSetcb true) { faulted with enc := { faulted.enc with eFault := false } } =
      .next (after (.decSetcb true) fresh) := ⟨rfl, by decide, rfl⟩

/-- For RoundTrip and LoadReplayParse: a receiver, an empty decoder, and a packet of each first bit. -/
theorem test_witness_RoundTrip :
    (after (.decSetcb true) fresh).cfg.Separated ∧ DecInv (after (.decSetcb true) fresh).dec ∧
    (after (.decSetcb true) fresh).dec.dstate = .rst ∧
    (after (.decSetcb true) fresh).dec.cbEn = true ∧
    (after (.decSetcb true) fresh).enc.eFault = false ∧ (2#32 : RepCount) ≠ 0#32 ∧
    Spec.bitAt pktA 0 = false ∧ Spec.bitAt pktM 0 = true :=
  ⟨by decide, by decide, rfl, rfl, rfl, by decide, rfl, rfl⟩

/-- A decoder left in the middle of a packet. -/
theorem test_witness_SecondRepetitionDecoded :
    at174.cfg.Separated ∧ DecInv at174.dec ∧ at174.dec.dstate ≠ .cpl ∧ at174.dec.cbEn = true ∧
    Spec.bitAt pktA 0 = false ∧
    durMatches at174.cfg (nFirstLow at174.cfg) (nShort at174.cfg) = false ∧
    durMatches at174.cfg (nFirstLow at174.cfg) (nLong at174.cfg) = false :=
  ⟨by decide, by decide, by decide, rfl, rfl, by decide, by decide⟩

end Sys2Proof.Tests
end

section
/-! PROOFS. The statements of the scope family: how a step runs the decoded operation (00_scope.md
rule R12; 60_exceptions.md rule R295) and that the classifier's windows are disjoint in a separated
configuration (00_scope.md rule R9; 40_timing_classifier.md rule R127). -/

namespace Sys2Proof.Machine

/-! ## One step, by what waits at the port -/

/-- R295: with no frame waiting a step is idle. -/
theorem step_of_inq_nil {s : State} (hq : s.port.inq = []) : step s = .next (idle s) := by
  simp only [step, fetch_nil hq]

/-- R12, R90: a frame that spells an operation is taken, and the operation runs without it. -/
theorem step_of_decode_ok {s : State} {f : List Byte} {rest : List (List Byte)} {i : Instr}
    (hq : s.port.inq = f :: rest) (hd : decode f = .ok i) :
    step s = exec i { s with port := { s.port with inq := rest } } := by
  simp only [step, fetch_cons hq, hd]

/-- Every field of an idle step's state where no frame waits. -/
theorem idle_of_inq_nil {s : State} (hq : s.port.inq = []) :
    idle s = { s with port := { inq := [], resp := [], pktReady := false } } := by
  rw [← hq]
  rfl

/-- Settles O6, by the two cases of the port's queue. -/
theorem stepRunsDecoded : Obligations.StepRunsDecoded := by
  intro s
  constructor
  · intro f rest i hq hd
    exact step_of_decode_ok hq hd
  · intro hq
    rw [step_of_inq_nil hq, idle_of_inq_nil hq]

/-! ## The classifier's windows -/

/-- R127: a duration that matches two nominals bounds their distance by the tolerance. -/
theorem distance_le_of_durMatches_both {c : Config} {d a b : Nat}
    (ha : durMatches c d a = true) (hb : durMatches c d b = true) :
    b + 2 ≤ a + 2 * c.teDelta.toNat := by
  obtain ⟨hda, -⟩ := (durMatches_iff c d a).mp ha
  obtain ⟨-, hbd⟩ := (durMatches_iff c d b).mp hb
  omega

/-- R9, R127: in a separated configuration no duration matches two nominals that lie `TE_SHORT` or
more apart. -/
theorem not_durMatches_both_of_separated {c : Config} {a b : Nat} (hc : c.Separated)
    (hab : a + nShort c ≤ b) (d : Nat) :
    ¬ (durMatches c d a = true ∧ durMatches c d b = true) := by
  rintro ⟨ha, hb⟩
  have hdist := distance_le_of_durMatches_both ha hb
  obtain ⟨-, hsep⟩ := hc
  unfold nShort at hab
  omega

/-- R9: in a well-formed configuration `TE_LONG` is twice `TE_SHORT`. -/
theorem nLong_of_wellFormed {c : Config} (hc : c.WellFormed) : nLong c = 2 * nShort c := by
  obtain ⟨-, -, hlong, -⟩ := hc
  exact hlong

/-- R122: the terminal nominal by the two base ones. -/
theorem nTerm_eq (c : Config) : nTerm c = nLong c + nShort c + nShort c / 2 := rfl

/-- R122: the mark nominal by the long one. -/
theorem nMark_eq (c : Config) : nMark c = 4 * nLong c := rfl

/-- Settles O19: the nominals of each pair lie at least `TE_SHORT` apart (R127). -/
theorem separatedWindowsDisjoint : Obligations.SeparatedWindowsDisjoint := by
  intro c d hc
  have hlong := nLong_of_wellFormed hc.1
  have hterm := nTerm_eq c
  have hmark := nMark_eq c
  have short_long : nShort c + nShort c ≤ nLong c := by omega
  have long_term : nLong c + nShort c ≤ nTerm c := by omega
  have short_term : nShort c + nShort c ≤ nTerm c := by omega
  have short_mark : nShort c + nShort c ≤ nMark c := by omega
  exact ⟨not_durMatches_both_of_separated hc short_long d,
    not_durMatches_both_of_separated hc long_term d,
    not_durMatches_both_of_separated hc short_term d,
    not_durMatches_both_of_separated hc short_mark d⟩

end Sys2Proof.Machine
end

section
/-! PROOFS. Everything one operation can do to the state, and one edge to the decoder, as two
relations: every statement about which elements an operation changes, or what it keeps, is a case
analysis over them (10_state.md rules R21, R27, R32, R33, R38, R41). -/

namespace Sys2Proof.Machine

/-! ## One edge in the decoder -/

/-- R181: the decoder after a resolved bit `b`: appended at `DCNT`, with the line coder's carry-over
`m`. -/
def withBit (b : Bool) (m : MdState) (x : DecState) : DecState :=
  { x with
    mdPend := m.pend, mdLvl := m.lvl, dbuf := bufOrBit x.dbuf x.dcnt.toNat b,
    dcnt := x.dcnt + 1#8 }

/-- R174 to R183: what one edge can do to the decoder state `x`: the next state and the `pkt_ready`
pulse. -/
inductive FeedEffect (x : DecState) : DecState → Bool → Prop
  /-- The edge is accepted, or ignored in `CPL`, without a change. -/
  | keeps : FeedEffect x x false
  /-- A decoder reset: an unexpected edge, a violation, or a complete packet without a receiver. -/
  | clears : FeedEffect x (decoderReset x) false
  /-- The preamble goes on (R175 to R177). -/
  | advances (d : DState) (hx : x.dstate ≠ .fd ∧ x.dstate ≠ .cpl) (hd : d ≠ .fd ∧ d ≠ .cpl) :
      FeedEffect x { x with dstate := d } false
  /-- The data begins, with the priming half pending (R178). -/
  | findsData (hx : x.dstate = .pal) :
      FeedEffect x { x with dstate := .fd, mdPend := true, mdLvl := false } false
  /-- The line coder takes a half and resolves nothing (R180). -/
  | takesHalf (m : MdState) (hx : x.dstate = .fd) (hm : m.pend = false → m.lvl = false) :
      FeedEffect x { x with mdPend := m.pend, mdLvl := m.lvl } false
  /-- A bit is appended, and the packet is not complete (R181). -/
  | takesBit (b : Bool) (m : MdState) (hx : x.dstate = .fd) (hn : x.dcnt.toNat < 175)
      (hm : m.pend = false → m.lvl = false) : FeedEffect x (withBit b m x) false
  /-- The last bit is appended, and the packet is held for the receiver (R182). -/
  | completes (b : Bool) (m : MdState) (hx : x.dstate = .fd) (hn : x.dcnt.toNat = 175)
      (hcb : x.cbEn = true) (hm : m.pend = false → m.lvl = false) :
      FeedEffect x { withBit b m x with dstate := .cpl } true

/-- R26, R145: an advance that leaves nothing pending leaves the level cleared. -/
theorem mdecAdvance_lvl (m : MdState) (k : Kind) (h : (mdecAdvance m k).1.pend = false) :
    (mdecAdvance m k).1.lvl = false := by
  obtain ⟨pend, lvl⟩ := m
  cases pend with
  | false =>
    rw [mdecAdvance_boundary] at h ⊢
    split_ifs at h ⊢
    rfl
  | true =>
    rw [mdecAdvance_pending] at h ⊢
    split_ifs at h ⊢
    · rfl
    · rfl

theorem feedRst_effect (c : Config) (l : Level) (d : Nat) {x : DecState} (hx : x.dstate = .rst) :
    FeedEffect x (feedRst c l d x) false := by
  unfold feedRst
  split
  · exact .advances .pas (by simp [hx]) (by decide)
  · exact .keeps

theorem feedPas_effect (c : Config) (l : Level) (d : Nat) {x : DecState} (hx : x.dstate = .pas) :
    FeedEffect x (feedPas c l d x) false := by
  unfold feedPas
  split
  · exact .advances .phvl (by simp [hx]) (by decide)
  · split
    · exact .keeps
    · exact .clears

theorem feedPhvl_effect (c : Config) (l : Level) (d : Nat) {x : DecState} (hx : x.dstate = .phvl) :
    FeedEffect x (feedPhvl c l d x) false := by
  unfold feedPhvl
  split
  · exact .advances .pal (by simp [hx]) (by decide)
  · exact .clears

theorem feedPal_effect (c : Config) (l : Level) (d : Nat) {x : DecState} (hx : x.dstate = .pal) :
    FeedEffect x (feedPal c l d x) false := by
  unfold feedPal
  split
  · exact .findsData hx
  · split
    · exact .keeps
    · exact .clears

/-- R181, R182: a resolved bit in `FD` is appended, completes the packet, or, without a receiver,
resets the decoder. -/
theorem feedBit_effect {b : Bool} {m : MdState} {x y : DecState} {ready : Bool}
    (hx : x.dstate = .fd) (hm : m.pend = false → m.lvl = false)
    (h : feedBit b { x with mdPend := m.pend, mdLvl := m.lvl } = some (y, ready)) :
    FeedEffect x y ready := by
  unfold feedBit at h
  split at h
  · cases h
  · rename_i z happ
    obtain ⟨hle, rfl⟩ := bufAppend_some happ
    replace hle : x.dcnt.toNat ≤ 175 := hle
    have hlast : x.dcnt + 1#8 = 176#8 ↔ x.dcnt.toNat = 175 := by bv_omega
    change (if x.dcnt + 1#8 = 176#8 then some (packetComplete (withBit b m x))
      else some (withBit b m x, false)) = some (y, ready) at h
    split at h
    · have hn := hlast.mp ‹_›
      rcases packetComplete_cases (withBit b m x) with ⟨hcb, hpc⟩ | ⟨-, hpc⟩
      · rw [hpc] at h
        cases h
        exact .completes b m hx hn hcb hm
      · rw [hpc] at h
        cases h
        exact .clears
    · have hn := mt hlast.mpr ‹_›
      cases h
      exact .takesBit b m hx (by omega) hm

/-- R180: the three results of the line coder in `FD`. -/
theorem feedKind_effect {k : Kind} {x y : DecState} {ready : Bool} (hx : x.dstate = .fd)
    (h : feedKind k x = some (y, ready)) : FeedEffect x y ready := by
  have hm := mdecAdvance_lvl { pend := x.mdPend, lvl := x.mdLvl } k
  unfold feedKind at h
  split at h
  · cases h
    exact .clears
  · rename_i m heq
    rw [heq] at hm
    cases h
    exact .takesHalf m hx hm
  · rename_i m b heq
    rw [heq] at hm
    exact feedBit_effect hx hm h

theorem feedFd_effect {c : Config} {l : Level} {d : Nat} {x y : DecState} {ready : Bool}
    (hx : x.dstate = .fd) (h : feedFd c l d x = some (y, ready)) : FeedEffect x y ready := by
  unfold feedFd at h
  split at h
  · cases h
    exact .clears
  · exact feedKind_effect hx h

/-- R174: one edge has one of the effects, by the rule of the state it meets. -/
theorem feedEdge_effect {c : Config} {l : Level} {d : Nat} {x y : DecState} {ready : Bool}
    (h : feedEdge c l d x = some (y, ready)) : FeedEffect x y ready := by
  cases hx : x.dstate <;> simp only [feedEdge, hx] at h
  case rst => cases h; exact feedRst_effect c l d hx
  case pas => cases h; exact feedPas_effect c l d hx
  case phvl => cases h; exact feedPhvl_effect c l d hx
  case pal => cases h; exact feedPal_effect c l d hx
  case fd => exact feedFd_effect hx h
  case cpl => cases h; exact .keeps

/-- R27: no edge changes `CB_EN`. -/
theorem FeedEffect.cbEn_eq {x y : DecState} {ready : Bool} (h : FeedEffect x y ready) :
    y.cbEn = x.cbEn := by
  cases h <;> rfl

/-- R281: the edge that pulses `pkt_ready` leaves the decoder in `CPL`. -/
theorem FeedEffect.dstate_of_ready {x y : DecState} (h : FeedEffect x y true) :
    y.dstate = .cpl := by
  cases h
  rfl

/-! ## The length of a generation -/

/-- R158: one bit, then the others. -/
theorem mencBits_cons {m m1 m2 : MeState} {w : Bool} {ws : List Bool} {ks rest : List Kind}
    (hw : mencBit m w = some (m1, ks)) (hws : mencBits m1 ws = some (m2, rest)) :
    mencBits m (w :: ws) = some (m2, ks ++ rest) := by
  simp only [mencBits, hw, hws]

/-- R158, R159: after a first bit each further bit gives one or two kinds. -/
theorem mencBits_halfOut_length (p : Bool) (ws : List Bool) :
    ∃ q ks,
      mencBits { step := .halfOut, prev := p } ws = some ({ step := .halfOut, prev := q }, ks) ∧
      ws.length ≤ ks.length ∧ ks.length ≤ 2 * ws.length := by
  induction ws generalizing p with
  | nil => exact ⟨p, [], rfl, by simp⟩
  | cons w ws ih =>
    obtain ⟨q, ks, hks, hlo, hhi⟩ := ih w
    refine ⟨q, _, mencBits_cons (mencBit_halfOut p w) hks, ?_⟩
    split <;> simp only [List.length_append, List.length_cons, List.length_nil] <;> omega

/-- R158, R159: the kinds of a nonempty bit string: one for the first bit, one or two for each
other. -/
theorem mencBits_start_length (w : Bool) (ws : List Bool) :
    ∃ q ks, mencBits mencStart (w :: ws) = some ({ step := .halfOut, prev := q }, ks) ∧
      ws.length + 1 ≤ ks.length ∧ ks.length ≤ 2 * ws.length + 1 := by
  obtain ⟨q, ks, hks, hlo, hhi⟩ := mencBits_halfOut_length w ws
  refine ⟨q, _, mencBits_cons (mencBit_start false w) hks, ?_⟩
  simp only [List.length_append, List.length_cons, List.length_nil]
  omega

@[simp] theorem preamble_length (c : Config) : (preamble c).length = 42 := by
  simp [preamble]

@[simp] theorem syncHeader_length (c : Config) : (syncHeader c).length = 4 := rfl

@[simp] theorem wireBits_length (b : Packet) : (wireBits b).length = 176 := by
  simp [wireBits]

/-- R239, R240: a generation always ends, with the line coder at its start and between 223 and 398
symbols. -/
theorem genSymbols_some (c : Config) (b : Packet) :
    ∃ q ys, genSymbols c b = some ({ step := .start, prev := q }, ys) ∧
      223 ≤ ys.length ∧ ys.length ≤ 398 := by
  have hlen := wireBits_length b
  cases hw : wireBits b with
  | nil => simp [hw] at hlen
  | cons w ws =>
    obtain ⟨q, ks, hks, hlo, hhi⟩ := mencBits_start_length w ws
    rw [hw, List.length_cons] at hlen
    refine ⟨q, _, by simp only [genSymbols, hw, hks, mencFlush]; rfl, ?_⟩
    simp only [List.length_append, preamble_length, syncHeader_length, List.length_map,
      List.length_cons, List.length_nil]
    omega

/-! ## One operation -/

/-- R92: what an operation can do to the state `s`, element by element. -/
inductive Effect (s : State) : Instr → State → Prop
  /-- The operation answers and changes nothing. -/
  | answers (i : Instr) (st : Status) (payload : List Byte) : Effect s i (answer st payload s)
  /-- R173. -/
  | resetsDecoder : Effect s .decReset (answer .ok [] { s with dec := decoderReset s.dec })
  /-- R174 to R183. -/
  | feeds (l : Level) (d : Duration) (x : DecState) (ready : Bool)
      (hx : FeedEffect s.dec x ready) :
      Effect s (.decFeed l d) (answerFeed ready { s with dec := x })
  /-- R172. -/
  | setsReceiver (en : Bool) :
      Effect s (.decSetcb en) (answer .ok [] { s with dec := { s.dec with cbEn := en } })
  /-- R210. -/
  | parses (src : PktSrc) (b : Packet) : Effect s (.pktParse src) (parsePacket b s)
  /-- R232. -/
  | rejects (kv rv : Bool) (n : BitVec 16) (r : RepCount) (k : Packet) (st : Status) :
      Effect s (.encLoad kv rv n r k) (rejectLoad st s)
  /-- R233. -/
  | loads (kv rv : Bool) (n : BitVec 16) (r rep : RepCount) (k : Packet) (m : MeState)
      (ys : List Symbol) (hf : s.enc.eFault = false) (hg : genSymbols s.cfg k = some (m, ys)) :
      Effect s (.encLoad kv rv n r k) (answer .ok [] { s with enc := loadedJob k rep m ys s.enc })
  /-- R244. -/
  | yieldsSentinel :
      Effect s .encYield
        (answer .ok sentinelAnswer { s with enc := { s.enc with eActive := false } })
  /-- R245. -/
  | yieldsSymbol (y : Symbol) (n : Nat) (hidle : encIdle s.enc = false)
      (hread : symRead s s.enc.eCur.toNat = some (y, { s with freeTick := n })) :
      Effect s .encYield
        (answer .ok (symbolAnswer y) { s with enc := advanceCursor s.enc, freeTick := n })
  /-- R247. -/
  | stops : Effect s .encStop (answer .ok [] { s with enc := { s.enc with eActive := false } })

/-- R41: a pure operation only answers, and its answer depends on the configuration alone. -/
theorem exec_pure {i : Instr} (hi : side i = .pure) (c : Config) :
    ∃ st payload, ∀ s : State, s.cfg = c → exec i s = .next (answer st payload s) := by
  cases i with
  | matchDur d n =>
    exact ⟨.ok, [bitToByte (durMatches c d.toNat n.toNat)], by rintro s rfl; rfl⟩
  | mdecReset => exact ⟨_, _, fun _ _ => rfl⟩
  | mdecAdv mds kind => exact ⟨_, _, fun _ _ => rfl⟩
  | mencReset => exact ⟨_, _, fun _ _ => rfl⟩
  | mencAdv mes bit =>
    cases h : mencAdvance mes bit with
    | none => exact ⟨_, _, fun s _ => by simp only [exec, execMencAdv, h]; rfl⟩
    | some a => exact ⟨_, _, fun s _ => by simp only [exec, execMencAdv, h]; rfl⟩
  | mencFinish mes =>
    cases h : mencFlush mes with
    | none => exact ⟨_, _, fun s _ => by simp only [exec, execMencFinish, h]; rfl⟩
    | some a => exact ⟨_, _, fun s _ => by simp only [exec, execMencFinish, h]; rfl⟩
  | crc8Msb poly init data => exact ⟨_, _, fun _ _ => rfl⟩
  | crc8Lsb poly init data => exact ⟨_, _, fun _ _ => rfl⟩
  | _ => cases hi

theorem execDecFeed_effect {l : Level} {d : Duration} {s t : State}
    (h : execDecFeed l d s = .next t) : Effect s (.decFeed l d) t := by
  unfold execDecFeed at h
  split at h
  · rename_i x ready hfeed
    cases h
    exact .feeds l d x ready (feedEdge_effect hfeed)
  · cases h

theorem execPktParse_effect {src : PktSrc} {s t : State} (h : execPktParse src s = .next t) :
    Effect s (.pktParse src) t := by
  cases src with
  | buf key => cases h; exact .parses _ key
  | dec =>
    simp only [execPktParse] at h
    split at h
    · cases h; exact .parses _ _
    · cases h; exact .answers _ _ _

theorem execPktSerialize_effect {s t : State} (h : execPktSerialize s = .next t) :
    Effect s .pktSerialize t := by
  unfold execPktSerialize at h
  split at h <;> cases h <;> exact .answers _ _ _

/-- R233: a load that passed its checks stores the generated sequence. -/
theorem acceptLoad_eq {rv : Bool} {r : RepCount} {k : Packet} {s : State} {m : MeState}
    {ys : List Symbol} (hg : genSymbols s.cfg k = some (m, ys)) :
    acceptLoad rv r k s =
      answer .ok []
        { s with enc := loadedJob k (if rv then r else s.cfg.repeatDefault) m ys s.enc } := by
  simp only [acceptLoad, hg]

theorem execEncLoad_effect {kv rv : Bool} {n : BitVec 16} {r : RepCount} {k : Packet} {s t : State}
    (h : execEncLoad kv rv n r k s = .next t) : Effect s (.encLoad kv rv n r k) t := by
  unfold execEncLoad at h
  split at h
  · cases h; exact .answers _ _ _
  · rename_i hf
    split at h
    · cases h; exact .rejects _ _ _ _ _ _
    · split at h
      · cases h; exact .rejects _ _ _ _ _ _
      · obtain ⟨q, ys, hg, -⟩ := genSymbols_some s.cfg k
        rw [acceptLoad_eq hg] at h
        cases h
        exact .loads _ _ _ _ _ _ _ _ (by simpa using hf) hg

theorem execEncYield_effect {s t : State} (h : execEncYield s = .next t) :
    Effect s .encYield t := by
  unfold execEncYield at h
  split at h
  · cases h; exact .answers _ _ _
  · split at h
    · cases h; exact .yieldsSentinel
    · rename_i hidle
      split at h
      · rename_i y u hread
        cases h
        rcases symRead_some hread with ⟨rfl, -⟩ | ⟨rfl, -⟩
        · exact .yieldsSymbol y _ (by simpa using hidle) hread
        · exact .yieldsSymbol y _ (by simpa using hidle) hread
      · cases h

/-- An operation that goes on has one of the effects. -/
theorem exec_effect {i : Instr} {s t : State} (h : exec i s = .next t) : Effect s i t := by
  by_cases hi : side i = .pure
  · obtain ⟨st, payload, hexec⟩ := exec_pure hi s.cfg
    rw [hexec s rfl] at h
    cases h
    exact .answers i st payload
  · cases i with
    | decReset => cases h; exact .resetsDecoder
    | decFeed l d => exact execDecFeed_effect h
    | decSetcb en => cases h; exact .setsReceiver en
    | pktParse src => exact execPktParse_effect h
    | pktSerialize => exact execPktSerialize_effect h
    | encLoad kv rv n r k => exact execEncLoad_effect h
    | encYield => exact execEncYield_effect h
    | encStop => cases h; exact .stops
    | _ => exact absurd rfl hi

end Sys2Proof.Machine
end

section
/-! PROOFS. The statements of the state family (10_state.md): the invariant at reset and over every
step, the write sets of the operations, and that a pure operation only answers. -/

namespace Sys2Proof.Machine

/-! ## The decoder's invariant -/

/-- R24 to R26, R171: a decoder reset leaves a decoder that meets its invariant. -/
theorem decInv_decoderReset (x : DecState) : DecInv (decoderReset x) := by
  simp [DecInv, decoderReset]

/-- R25, R181: appending a bit at `DCNT` leaves the bits above it at 0. -/
theorem bufBit_withBit_unfilled {b : Bool} {m : MdState} {x : DecState} (hn : x.dcnt.toNat ≤ 175)
    (hbuf : ∀ k, k < 176 → x.dcnt.toNat ≤ k → bufBit x.dbuf k = false) (k : Nat) (hk : k < 176)
    (hlt : x.dcnt.toNat < k) : bufBit (withBit b m x).dbuf k = false := by
  have hne : k ≠ x.dcnt.toNat := by omega
  show bufBit (bufOrBit x.dbuf x.dcnt.toNat b) k = false
  rw [bufBit_bufOrBit _ _ _ _ (by omega) hk, hbuf k hk (by omega)]
  simp [hne]

/-- R181: the bit count after an append. -/
theorem withBit_dcnt_toNat {b : Bool} {m : MdState} {x : DecState} (hn : x.dcnt.toNat ≤ 175) :
    (withBit b m x).dcnt.toNat = x.dcnt.toNat + 1 := by
  show (x.dcnt + 1#8).toNat = _
  bv_omega

/-- R24 to R26: every effect of an edge keeps the decoder's invariant. -/
theorem FeedEffect.decInv {x y : DecState} {ready : Bool} (h : FeedEffect x y ready)
    (hx : DecInv x) : DecInv y := by
  obtain ⟨hfd, hcpl, hpre, hbuf, hlvl⟩ := hx
  cases h with
  | keeps => exact ⟨hfd, hcpl, hpre, hbuf, hlvl⟩
  | clears => exact decInv_decoderReset x
  | advances d hx hd =>
    have hcnt : x.dcnt ≠ 176#8 := mt hcpl.mpr hx.2
    exact ⟨fun h => absurd h hd.1, iff_of_false hd.2 hcnt, fun _ _ => hpre hx.1 hx.2, hbuf, hlvl⟩
  | findsData hpal =>
    obtain ⟨hzero, -⟩ := hpre (by simp [hpal]) (by simp [hpal])
    exact ⟨fun _ => by simp [hzero], by simp [hzero], fun h => absurd rfl h, hbuf, nofun⟩
  | takesHalf m hdata hm =>
    exact ⟨hfd, hcpl, fun h => absurd hdata h, hbuf, hm⟩
  | takesBit b m hdata hn hm =>
    have hcnt := withBit_dcnt_toNat (b := b) (m := m) (x := x) (by omega)
    refine ⟨fun _ => by omega, iff_of_false ?_ ?_, fun h => absurd hdata h, ?_, hm⟩
    · show x.dstate ≠ .cpl
      simp [hdata]
    · intro hlast
      simp only [hlast, BitVec.toNat_ofNat] at hcnt
      omega
    · intro k hk hle
      exact bufBit_withBit_unfilled (by omega) hbuf k hk (by omega)
  | completes b m hdata hn _ hm =>
    have hcnt := withBit_dcnt_toNat (b := b) (m := m) (x := x) (by omega)
    have hlast : (withBit b m x).dcnt = 176#8 := BitVec.eq_of_toNat_eq (by rw [hcnt, hn]; rfl)
    refine ⟨nofun, iff_of_true rfl hlast, fun _ h => absurd rfl h, ?_, hm⟩
    intro k hk hle
    change (withBit b m x).dcnt.toNat ≤ k at hle
    omega

/-! ## The parser's invariant -/

/-- R43: the parser's reset values are what a parse of 22 zero bytes computes. -/
theorem prsInv_reset : PrsInv PrsState.reset := by decide

/-- R32, R210: a parse leaves the registers that its buffer gives. -/
theorem prsInv_parsed (b : Packet) : PrsInv (parsed b) := ⟨rfl, nofun⟩

/-! ## The encoder's invariant -/

/-- R38: clearing `E_ACTIVE` keeps the encoder's invariant. -/
theorem EncInv.deactivate {c : Config} {e : EncState} (h : EncInv c e) :
    EncInv c { e with eActive := false } := by
  rcases h with rfl | hjob
  · exact .inl rfl
  · exact .inr hjob

/-- R33, R239, R240: a load leaves the sequence generated from its key, with the cursor at 0. -/
theorem encInv_loadedJob {c : Config} {e : EncState} {k : Packet} {rep : RepCount} {m : MeState}
    {ys : List Symbol} (hf : e.eFault = false) (hg : genSymbols c k = some (m, ys)) :
    EncInv c (loadedJob k rep m ys e) := by
  obtain ⟨q, ys', hg', hlo, hhi⟩ := genSymbols_some c k
  obtain ⟨rfl, rfl⟩ : m = { step := .start, prev := q } ∧ ys = ys' := by
    simpa [hg] using hg'
  have hlen : (BitVec.ofNat 9 ys.length).toNat = ys.length := by
    rw [BitVec.toNat_ofNat]
    omega
  refine .inr ⟨hg, rfl, hlen, ?_, ?_, ?_, rfl, hf⟩ <;> simp only [loadedJob, hlen]
  · exact hlo
  · exact hhi
  · show 0 < ys.length
    omega

/-- R244: an encoder at its reset values is idle. -/
theorem encIdle_reset : encIdle EncState.reset = true := rfl

/-- R35, R245: the cursor stays below `E_LEN`. -/
theorem advanceCursor_eCur_lt {e : EncState} (h : e.eCur.toNat < e.eLen.toNat) :
    (advanceCursor e).eCur.toNat < e.eLen.toNat := by
  rcases advanceCursor_cases e with ⟨-, heq⟩ | ⟨hne, heq⟩
  · rw [heq]
    show 0 < e.eLen.toNat
    omega
  · rw [heq]
    show (e.eCur + 1#9).toNat < e.eLen.toNat
    bv_omega

/-- R245: a yielded symbol keeps the encoder's invariant. -/
theorem EncInv.advanceCursor {c : Config} {e : EncState} (h : EncInv c e)
    (hidle : encIdle e = false) : EncInv c (advanceCursor e) := by
  rcases h with rfl | ⟨hg, hbits, hlen, hlo, hhi, hcur, hstep, hf⟩
  · rw [encIdle_reset] at hidle
    cases hidle
  · refine .inr ⟨?_, ?_, ?_, ?_, ?_, ?_, ?_, ?_⟩
    all_goals simp only [advanceCursor_eBuf, advanceCursor_eBits, advanceCursor_eLen,
      advanceCursor_eSym, advanceCursor_meStep, advanceCursor_mePrev, advanceCursor_eFault]
    exacts [hg, hbits, hlen, hlo, hhi, advanceCursor_eCur_lt hcur, hstep, hf]

/-! ## The invariant -/

/-- Every well-formed configuration meets the invariant right after reset. -/
theorem inv_resetWith {c : Config} (hc : c.WellFormed) : Inv (State.resetWith c) :=
  ⟨hc, decInv_decoderReset DecState.reset, prsInv_reset, .inl rfl, nofun⟩

/-- Settles O7: the configuration the block was given is a well-formed one. -/
theorem invariantAtReset : Obligations.InvariantAtReset :=
  ⟨inv_resetWith Config.given.wf, fun _ hc => inv_resetWith hc⟩

/-- Every effect of an operation keeps the invariant. -/
theorem Effect.inv {s t : State} {i : Instr} (h : Effect s i t) (hs : Inv s) : Inv t := by
  obtain ⟨hcfg, hdec, hprs, henc, -⟩ := hs
  cases h with
  | answers => exact ⟨hcfg, hdec, hprs, henc, nofun⟩
  | resetsDecoder => exact ⟨hcfg, decInv_decoderReset s.dec, hprs, henc, nofun⟩
  | feeds l d x ready hx =>
    refine ⟨hcfg, hx.decInv hdec, hprs, henc, ?_⟩
    rintro rfl
    exact hx.dstate_of_ready
  | setsReceiver => exact ⟨hcfg, hdec, hprs, henc, nofun⟩
  | parses src b => exact ⟨hcfg, hdec, prsInv_parsed b, henc, nofun⟩
  | rejects => exact ⟨hcfg, hdec, hprs, henc.deactivate, nofun⟩
  | loads _ _ _ _ _ _ _ _ hf hg => exact ⟨hcfg, hdec, hprs, encInv_loadedJob hf hg, nofun⟩
  | yieldsSentinel => exact ⟨hcfg, hdec, hprs, henc.deactivate, nofun⟩
  | yieldsSymbol y n hidle => exact ⟨hcfg, hdec, hprs, henc.advanceCursor hidle, nofun⟩
  | stops => exact ⟨hcfg, hdec, hprs, henc.deactivate, nofun⟩

/-- Settles O8: an idle step and an illegal frame change nothing the invariant speaks of but the
notification line, which they lower; an operation has one of the effects. -/
theorem invariantKept : Obligations.InvariantKept := by
  rintro s t ⟨hcfg, hdec, hprs, henc, hport⟩ hstep
  rcases step_next_cases hstep with ⟨-, rfl⟩ | ⟨_, _, _, -, -, rfl⟩ | ⟨_, _, _, -, -, hexec⟩
  · exact ⟨hcfg, hdec, hprs, henc, nofun⟩
  · exact ⟨hcfg, hdec, hprs, henc, nofun⟩
  · exact (exec_effect hexec).inv ⟨hcfg, hdec, hprs, henc, hport⟩

/-! ## Write sets -/

section
variable {s t : State} {i : Instr}

/-- R21: no operation changes the configuration. -/
theorem Effect.cfg_eq (h : Effect s i t) : t.cfg = s.cfg := by
  cases h <;> rfl

/-- No operation takes or adds a waiting frame. -/
theorem Effect.inq_eq (h : Effect s i t) : t.port.inq = s.port.inq := by
  cases h <;> rfl

/-- R23 to R27: the decoder is written by its own three operations. -/
theorem Effect.dec_eq_or (h : Effect s i t) :
    t.dec = s.dec ∨ i = .decReset ∨ (∃ l d, i = .decFeed l d) ∨ ∃ en, i = .decSetcb en := by
  cases h with
  | resetsDecoder => exact .inr (.inl rfl)
  | feeds l d => exact .inr (.inr (.inl ⟨l, d, rfl⟩))
  | setsReceiver en => exact .inr (.inr (.inr ⟨en, rfl⟩))
  | _ => exact .inl rfl

/-- R27: `CB_EN` is written by DEC_SETCB. -/
theorem Effect.cbEn_eq_or (h : Effect s i t) :
    t.dec.cbEn = s.dec.cbEn ∨ ∃ en, i = .decSetcb en := by
  cases h with
  | feeds l d x ready hx => exact .inl hx.cbEn_eq
  | setsReceiver en => exact .inr ⟨en, rfl⟩
  | _ => exact .inl rfl

/-- R32: the parser is written by PKT_PARSE. -/
theorem Effect.prs_eq_or (h : Effect s i t) : t.prs = s.prs ∨ ∃ src, i = .pktParse src := by
  cases h with
  | parses src => exact .inr ⟨src, rfl⟩
  | _ => exact .inl rfl

/-- R33, R60: the encoder is written by its own three operations. -/
theorem Effect.enc_eq_or (h : Effect s i t) : t.enc = s.enc ∨ side i = .encoder := by
  cases h with
  | rejects | loads | yieldsSentinel | yieldsSymbol | stops => exact .inr rfl
  | _ => exact .inl rfl

end

/-- R33 to R40: `e'` has the elements of `e` that only a load writes, and no job has started. -/
structure SameJob (e e' : EncState) : Prop where
  eBuf : e'.eBuf = e.eBuf
  eBits : e'.eBits = e.eBits
  eSym : e'.eSym = e.eSym
  eLen : e'.eLen = e.eLen
  meStep : e'.meStep = e.meStep
  mePrev : e'.mePrev = e.mePrev
  eFault : e'.eFault = e.eFault
  eActive : e'.eActive = true → e.eActive = true

theorem sameJob_refl (e : EncState) : SameJob e e := ⟨rfl, rfl, rfl, rfl, rfl, rfl, rfl, id⟩

theorem sameJob_deactivate (e : EncState) : SameJob e { e with eActive := false } :=
  ⟨rfl, rfl, rfl, rfl, rfl, rfl, rfl, nofun⟩

theorem sameJob_advanceCursor (e : EncState) : SameJob e (advanceCursor e) := by
  constructor <;> simp

/-- R33 to R40: the job is written by ENC_LOAD. -/
theorem Effect.sameJob_or {s t : State} {i : Instr} (h : Effect s i t) :
    SameJob s.enc t.enc ∨ ∃ kv rv n r k, i = .encLoad kv rv n r k := by
  cases h with
  | rejects kv rv n r k => exact .inr ⟨kv, rv, n, r, k, rfl⟩
  | loads kv rv n r _ k => exact .inr ⟨kv, rv, n, r, k, rfl⟩
  | yieldsSentinel | stops => exact .inl (sameJob_deactivate s.enc)
  | yieldsSymbol => exact .inl (sameJob_advanceCursor s.enc)
  | _ => exact .inl (sameJob_refl s.enc)

/-- Settles O10: each clause reads off the effects of the operation. -/
theorem writeSets : Obligations.WriteSets := by
  intro i s t hexec
  have heff := exec_effect hexec
  refine ⟨heff.cfg_eq, heff.inq_eq, heff.dec_eq_or.resolve_left, heff.cbEn_eq_or.resolve_left,
    heff.prs_eq_or.resolve_left, heff.enc_eq_or.resolve_left, fun hchange =>
    heff.sameJob_or.resolve_left fun hsame => ?_⟩
  rcases hchange with h | h | h | h | h | h | h | ⟨hoff, hon⟩
  · exact h hsame.eBuf
  · exact h hsame.eBits
  · exact h hsame.eSym
  · exact h hsame.eLen
  · exact h hsame.meStep
  · exact h hsame.mePrev
  · exact h hsame.eFault
  · simp [hsame.eActive hon] at hoff

/-! ## Pure operations -/

/-- Settles O12: the one answer of the configuration serves both states. -/
theorem pureOperationsLeaveNoTrace : Obligations.PureOperationsLeaveNoTrace := by
  intro i s s' hi hcfg
  obtain ⟨st, payload, hexec⟩ := exec_pure hi s.cfg
  exact ⟨statusByte st :: payload, hexec s rfl, hexec s' hcfg⟩

end Sys2Proof.Machine
end

section
/-! PROOFS. The statements of the memory family (20_memory.md): reads and appends of a 22-byte store
(R62 to R64), and that the operations of the two sides commute (R73). -/

namespace Sys2Proof.Machine

/-! ## Bits of a store -/

/-- R62: the model's bit read is the one on numbers. -/
theorem bitAt_eq_bufBit (b : Packet) (k : Nat) : Spec.bitAt b k = bufBit b k := by
  unfold Spec.bitAt bufBit
  rw [← BitVec.testBit_toNat, Nat.testBit_eq_decide_div_mod_eq]

/-- Settles O15: the append ORs its bit in at `DCNT`, where the bit was 0. -/
theorem bufAppendSetsOneBit : Obligations.BufAppendSetsOneBit := by
  intro v x hn hzero
  simp only [bitAt_eq_bufBit] at hzero ⊢
  refine ⟨_, bufAppend_of_le v x hn, ?_, fun k hk => ?_, rfl⟩
  · show (x.dcnt + 1#8).toNat = x.dcnt.toNat + 1
    bv_omega
  · show bufBit (bufOrBit x.dbuf x.dcnt.toNat v) k = _
    rw [bufBit_bufOrBit _ _ _ _ (by omega) hk]
    by_cases heq : k = x.dcnt.toNat
    · rw [hzero k (by omega) hk]
      simp [heq]
    · simp [heq]

/-! ## Big-endian accumulation -/

/-- R64: shifting a byte into an accumulator that has room for it is concatenation. -/
theorem shiftIn_eq_append {m w : Nat} (v : BitVec m) (b : Byte) :
    (v.setWidth w <<< 8) ||| b.setWidth w = (v ++ b).setWidth w := by
  apply BitVec.eq_of_getLsbD_eq
  intro i hi
  simp only [BitVec.getLsbD_or, BitVec.getLsbD_shiftLeft, BitVec.getLsbD_setWidth,
    BitVec.getLsbD_append, hi, decide_true, Bool.true_and]
  by_cases hlow : i < 8
  · simp [hlow]
  · have hroom : i - 8 < w := by omega
    simp [hlow, hroom, BitVec.getLsbD_of_ge b i (by omega)]

/-- R64: the first byte of an accumulation. -/
theorem shiftIn_zero {w : Nat} (b : Byte) : (0#w <<< 8) ||| b.setWidth w = b.setWidth w := by
  simp

/-- R62: a byte of a store that exists reads without the default. -/
theorem byte_getD (b : Packet) (i : Nat) (h : i < 22) : (b[i]?).getD 0#8 = b[i] := by
  simp [h]

/-- R64: four bytes. -/
theorem bufBytesBE_four (b : Packet) (off : Nat) (h : off + 4 ≤ 22) :
    bufBytesBE b off 4 = b[off] ++ b[off + 1] ++ b[off + 2] ++ b[off + 3] := by
  show List.foldl _ _ [0, 1, 2, 3] = _
  simp only [List.foldl_cons, List.foldl_nil]
  simp (disch := omega) only [byte_getD, shiftIn_zero, shiftIn_eq_append]
  exact BitVec.setWidth_eq _

/-- R64: eight bytes. -/
theorem bufBytesBE_eight (b : Packet) (off : Nat) (h : off + 8 ≤ 22) :
    bufBytesBE b off 8 = b[off] ++ b[off + 1] ++ b[off + 2] ++ b[off + 3] ++
      b[off + 4] ++ b[off + 5] ++ b[off + 6] ++ b[off + 7] := by
  show List.foldl _ _ [0, 1, 2, 3, 4, 5, 6, 7] = _
  simp only [List.foldl_cons, List.foldl_nil]
  simp (disch := omega) only [byte_getD, shiftIn_zero, shiftIn_eq_append]
  exact BitVec.setWidth_eq _

/-- Settles O16: the bit read on numbers, and the accumulation as a chain of appends. -/
theorem storeReadsBigEndian : Obligations.StoreReadsBigEndian := by
  refine ⟨fun b k hk => ?_, fun b off => ⟨bufBytesBE_four b off, bufBytesBE_eight b off⟩⟩
  have hbyte : k / 8 < 22 := by omega
  rw [← bitAt_eq_bufBit]
  simp [Spec.bitAt, hbyte]

/-! ## What each side reads and writes -/

/-- R60: `s` after an operation of the decoder side: the decoder, the parser, the answer and the
notification line are written. -/
def writeDecoderSide (x : DecState) (p : PrsState) (resp : List Byte) (ready : Bool) (s : State) :
    State :=
  { s with dec := x, prs := p, port := { s.port with resp := resp, pktReady := ready } }

/-- R60: `s` after an operation of the encoder side: the encoder, the count of free values and the
answer are written, and nothing pulses. -/
def writeEncoderSide (e : EncState) (n : Nat) (resp : List Byte) (s : State) : State :=
  { s with enc := e, freeTick := n, port := { s.port with resp := resp, pktReady := false } }

/-- R73: what a decoder-side operation writes is fixed by the configuration, the decoder and the
parser. -/
theorem exec_decoder {i : Instr} {s t : State} (hi : side i = .decoder) (h : exec i s = .next t) :
    ∃ x p resp ready, ∀ s' : State, s'.cfg = s.cfg → s'.dec = s.dec → s'.prs = s.prs →
      exec i s' = .next (writeDecoderSide x p resp ready s') := by
  cases i with
  | decReset =>
    refine ⟨decoderReset s.dec, s.prs, [statusByte .ok], false, fun s' _ hdec hprs => ?_⟩
    rw [← hdec, ← hprs]
    rfl
  | decFeed l d =>
    cases hfeed : feedEdge s.cfg l d.toNat s.dec with
    | none => simp [exec, execDecFeed, hfeed] at h
    | some r =>
      refine ⟨r.1, s.prs, [statusByte .ok], r.2, fun s' hcfg hdec hprs => ?_⟩
      rw [← hcfg, ← hdec] at hfeed
      rw [← hprs]
      simp only [exec, execDecFeed, hfeed]
      rfl
  | decSetcb en =>
    refine ⟨{ s.dec with cbEn := en }, s.prs, [statusByte .ok], false, fun s' _ hdec hprs => ?_⟩
    rw [← hdec, ← hprs]
    rfl
  | pktParse src =>
    cases src with
    | buf key =>
      refine ⟨s.dec, parsed key, statusByte .ok :: parseAnswer (parsed key), false,
        fun s' _ hdec _ => ?_⟩
      rw [← hdec]
      rfl
    | dec =>
      by_cases hcpl : s.dec.dstate = .cpl
      · refine ⟨s.dec, parsed s.dec.dbuf, statusByte .ok :: parseAnswer (parsed s.dec.dbuf),
          false, fun s' _ hdec _ => ?_⟩
        rw [← hdec] at hcpl ⊢
        simp only [exec, execPktParse, hcpl, if_true]
        rfl
      · refine ⟨s.dec, s.prs, [statusByte .notReady], false, fun s' _ hdec hprs => ?_⟩
        rw [← hdec] at hcpl ⊢
        rw [← hprs]
        simp only [exec, execPktParse, hcpl, if_false]
        rfl
  | pktSerialize =>
    cases hvalid : s.prs.pValid with
    | true =>
      refine ⟨s.dec, s.prs, statusByte .ok :: serializeAnswer s.prs.pbuf, false,
        fun s' _ hdec hprs => ?_⟩
      rw [← hprs] at hvalid ⊢
      rw [← hdec]
      simp only [exec, execPktSerialize, hvalid, if_true]
      rfl
    | false =>
      refine ⟨s.dec, s.prs, [statusByte .notReady], false, fun s' _ hdec hprs => ?_⟩
      rw [← hprs] at hvalid ⊢
      rw [← hdec]
      simp only [exec, execPktSerialize, hvalid]
      rfl
  | _ => cases hi

/-- R65: what a symbol reads as, and whether it uses a free value, is fixed by the encoder and the
count of free values. -/
theorem symRead_congr {s s' : State} {i n : Nat} {y : Symbol} (henc : s'.enc = s.enc)
    (htick : s'.freeTick = s.freeTick) (h : symRead s i = some (y, { s with freeTick := n })) :
    symRead s' i = some (y, { s' with freeTick := n }) := by
  unfold symRead at h ⊢
  rw [henc, htick]
  split_ifs at h ⊢ with hmeaningful hcell
  · obtain ⟨rfl, hs⟩ := Prod.mk.inj (Option.some.inj h)
    have hn : s'.freeTick = n := htick.trans (congrArg State.freeTick hs)
    rw [← hn, ← henc]
  · obtain ⟨rfl, hs⟩ := Prod.mk.inj (Option.some.inj h)
    have hn : s.freeTick + 1 = n := congrArg State.freeTick hs
    rw [hn]

/-- R243, R245: a yield of a running job that goes on has read a symbol. -/
theorem symRead_of_execEncYield {s t : State} (hfault : s.enc.eFault = false)
    (hidle : encIdle s.enc = false) (h : execEncYield s = .next t) :
    ∃ y n, symRead s s.enc.eCur.toNat = some (y, { s with freeTick := n }) := by
  cases hread : symRead s s.enc.eCur.toNat with
  | none => simp [execEncYield, hfault, hidle, hread] at h
  | some r =>
    obtain ⟨y, u⟩ := r
    rcases symRead_some hread with ⟨rfl, -⟩ | ⟨rfl, -⟩
    · exact ⟨y, u.freeTick, rfl⟩
    · exact ⟨y, _, rfl⟩

/-- R245: a yield that reads a symbol. -/
theorem execEncYield_symbol {s : State} {y : Symbol} {n : Nat} (hfault : s.enc.eFault = false)
    (hidle : encIdle s.enc = false)
    (hread : symRead s s.enc.eCur.toNat = some (y, { s with freeTick := n })) :
    execEncYield s =
      .next (writeEncoderSide (advanceCursor s.enc) n (statusByte .ok :: symbolAnswer y) s) := by
  simp only [execEncYield, hfault, hidle, hread]
  rfl

/-- R73: what a load writes is fixed by the configuration, the encoder and the count of free
values. -/
theorem execEncLoad_local (kv rv : Bool) (n : BitVec 16) (r : RepCount) (k : Packet) (s : State) :
    ∃ e m resp, ∀ s' : State, s'.cfg = s.cfg → s'.enc = s.enc → s'.freeTick = s.freeTick →
      execEncLoad kv rv n r k s' = .next (writeEncoderSide e m resp s') := by
  by_cases hfault : s.enc.eFault = true
  · refine ⟨s.enc, s.freeTick, [statusByte .contractViolation], fun s' _ henc htick => ?_⟩
    rw [← henc] at hfault ⊢
    rw [← htick, execEncLoad, if_pos hfault]
    rfl
  · by_cases hbits : n ≠ 176#16
    · refine ⟨{ s.enc with eActive := false }, s.freeTick, [statusByte .bitCountMismatch],
        fun s' _ henc htick => ?_⟩
      rw [← henc] at hfault ⊢
      rw [← htick, execEncLoad, if_neg hfault, if_pos hbits]
      rfl
    · by_cases hkey : kv = false
      · refine ⟨{ s.enc with eActive := false }, s.freeTick, [statusByte .missingKey],
          fun s' _ henc htick => ?_⟩
        rw [← henc] at hfault ⊢
        rw [← htick, execEncLoad, if_neg hfault, if_neg hbits, if_pos hkey]
        rfl
      · obtain ⟨q, ys, hgen, -⟩ := genSymbols_some s.cfg k
        refine ⟨loadedJob k (if rv then r else s.cfg.repeatDefault)
          { step := .start, prev := q } ys s.enc, s.freeTick, [statusByte .ok],
          fun s' hcfg henc htick => ?_⟩
        rw [← hcfg] at hgen ⊢
        rw [← henc] at hfault ⊢
        rw [← htick, execEncLoad, if_neg hfault, if_neg hbits, if_neg hkey, acceptLoad_eq hgen]
        rfl

/-- R73: what a yield writes is fixed by the encoder and the count of free values. -/
theorem execEncYield_local {s t : State} (h : execEncYield s = .next t) :
    ∃ e m resp, ∀ s' : State, s'.enc = s.enc → s'.freeTick = s.freeTick →
      execEncYield s' = .next (writeEncoderSide e m resp s') := by
  cases hfault : s.enc.eFault with
  | true =>
    refine ⟨s.enc, s.freeTick, [statusByte .contractViolation], fun s' henc htick => ?_⟩
    rw [← henc] at hfault ⊢
    rw [← htick, execEncYield, if_pos hfault]
    rfl
  | false =>
    cases hidle : encIdle s.enc with
    | true =>
      refine ⟨{ s.enc with eActive := false }, s.freeTick, statusByte .ok :: sentinelAnswer,
        fun s' henc htick => ?_⟩
      rw [← henc] at hfault hidle ⊢
      rw [← htick, execEncYield, if_neg (by simp [hfault]), if_pos hidle]
      rfl
    | false =>
      obtain ⟨y, m, hread⟩ := symRead_of_execEncYield hfault hidle h
      refine ⟨advanceCursor s.enc, m, statusByte .ok :: symbolAnswer y, fun s' henc htick => ?_⟩
      have hread' := symRead_congr henc htick hread
      rw [← henc] at hfault hidle hread' ⊢
      exact execEncYield_symbol hfault hidle hread'

/-- R73: what an encoder-side operation writes is fixed by the configuration, the encoder and the
count of free values. -/
theorem exec_encoder {j : Instr} {s t : State} (hj : side j = .encoder) (h : exec j s = .next t) :
    ∃ e n resp, ∀ s' : State, s'.cfg = s.cfg → s'.enc = s.enc → s'.freeTick = s.freeTick →
      exec j s' = .next (writeEncoderSide e n resp s') := by
  cases j with
  | encLoad kv rv n r k => exact execEncLoad_local kv rv n r k s
  | encYield =>
    obtain ⟨e, n, resp, hlocal⟩ := execEncYield_local h
    exact ⟨e, n, resp, fun s' _ => hlocal s'⟩
  | encStop =>
    refine ⟨{ s.enc with eActive := false }, s.freeTick, [statusByte .ok],
      fun s' _ henc htick => ?_⟩
    rw [← henc, ← htick]
    rfl
  | _ => cases hj

/-- Settles O11: each side writes what the elements it reads fix, and the other side writes none of
them. -/
theorem sidesCommute : Obligations.SidesCommute := by
  intro i j s s1 s2 hi hj h1 h2
  obtain ⟨x, p, resp, ready, hdec⟩ := exec_decoder hi h1
  obtain rfl : writeDecoderSide x p resp ready s = s1 := by
    simpa only [hdec s rfl rfl rfl, Host.Outcome.next.injEq] using h1
  obtain ⟨e, n, resp', henc⟩ := exec_encoder hj h2
  obtain rfl : writeEncoderSide e n resp' (writeDecoderSide x p resp ready s) = s2 := by
    simpa only [henc _ rfl rfl rfl, Host.Outcome.next.injEq] using h2
  exact ⟨_, _, henc s rfl rfl rfl, hdec _ rfl rfl rfl, rfl, rfl, rfl, rfl, rfl, rfl, rfl, rfl, rfl⟩

end Sys2Proof.Machine
end

section
/-! PROOFS. The statements of the encoding family: decoder and encoder undo each other, the decoder
reads exactly the legal frames, and an illegal frame is answered without a change of state
(30_encoding.md rules R91 to R93, R98). -/

namespace Sys2Proof

/-! ## One operand byte (R93): what is read is what its byte spells -/

/-- A mapped result is a success exactly of an argument that is one. -/
theorem except_map_eq_ok_iff {α β : Type} {f : α → β} {x : Except DecodeError α} {b : β} :
    x.map f = .ok b ↔ ∃ a, x = .ok a ∧ f a = b := by
  cases x <;> simp [Except.map]

/-- Two readings in sequence succeed exactly when both do. -/
theorem except_bind_eq_ok_iff {α β : Type} {f : α → Except DecodeError β} {x : Except DecodeError α}
    {b : β} : x.bind f = .ok b ↔ ∃ a, x = .ok a ∧ f a = .ok b := by
  cases x <;> simp [Except.bind]

theorem readBit_eq_ok_iff {x : Byte} {b : Bool} : readBit x = .ok b ↔ x = bitToByte b := by
  constructor
  · intro h
    exact (readBit_ok h).symm
  · rintro rfl
    exact readBit_bitToByte b

theorem readKind_eq_ok_iff {x : Byte} {k : Kind} : readKind x = .ok k ↔ x = k.toByte := by
  constructor
  · cases k <;> revert x <;> decide
  · rintro rfl
    exact readKind_toByte k

theorem readMds_eq_ok_iff {x : Byte} {m : MdState} : readMds x = .ok m ↔ x = m.toByte := by
  constructor
  · rcases m with ⟨_ | _, _ | _⟩ <;> revert x <;> decide
  · rintro rfl
    exact readMds_toByte m

theorem readMes_eq_ok_iff {x : Byte} {m : MeState} : readMes x = .ok m ↔ x = m.toByte := by
  constructor
  · rcases m with ⟨_ | _ | _ | _, _ | _⟩ <;> revert x <;> decide
  · rintro rfl
    exact readMes_toByte m

theorem readKey_eq_ok_iff {l : List Byte} {k : Packet} : readKey l = .ok k ↔ l = k.toList := by
  constructor
  · intro h
    exact (readKey_ok h).1.symm
  · rintro rfl
    exact readKey_toList k

/-- R93: the flags byte of ENC_LOAD, bit 0 = `key_valid`, bit 1 = `rep_valid`. -/
def flagsByte (keyValid repValid : Bool) : Byte := bitToByte keyValid ||| (bitToByte repValid <<< 1)

/-- R93: a flags byte with clear must-be-zero bits is the byte of its two flags. -/
theorem flags_iff_eq_flagsByte {x : Byte} {kv rv : Bool} :
    (x >>> 2 = 0#8 ∧ x.getLsbD 0 = kv ∧ x.getLsbD 1 = rv) ↔ x = flagsByte kv rv := by
  revert x kv rv
  decide

/-- R93: a `len` byte that counts the data is the byte of their number, which fits one byte. -/
theorem length_eq_len_iff {data : List Byte} {len : Byte} :
    data.length = len.toNat ↔ len = BitVec.ofNat 8 data.length ∧ crcDataOk data = true := by
  constructor
  · intro h
    have hlt := len.isLt
    exact ⟨by rw [h, BitVec.ofNat_toNat, BitVec.setWidth_eq], decide_eq_true (by omega)⟩
  · rintro ⟨rfl, hok⟩
    exact (Laws.len_toNat hok).symm

/-! ## One reader per frame format (R91): the bytes it accepts and the operation it reads -/

section
variable {l : List Byte} {i : Instr}

theorem readZ_eq_ok_iff {j : Instr} : readZ j l = .ok i ↔ l = [] ∧ j = i := by
  cases l <;> simp [readZ]

theorem readB_eq_ok_iff {mk : Bool → Instr} :
    readB mk l = .ok i ↔ ∃ b, l = [bitToByte b] ∧ mk b = i := by
  unfold readB
  split
  · simp [except_map_eq_ok_iff, readBit_eq_ok_iff]
  · simp_all

theorem readED_eq_ok_iff {mk : Level → Duration → Instr} :
    readED mk l = .ok i ↔ ∃ lvl d, l = bitToByte lvl :: bytes32 d ∧ mk lvl d = i := by
  constructor
  · intro h
    unfold readED at h
    split at h
    · next x a b c d =>
      obtain ⟨lvl, hlvl, hi⟩ := except_map_eq_ok_iff.mp h
      exact ⟨lvl, be32 a b c d, by rw [bytes32_be32, readBit_eq_ok_iff.mp hlvl], hi⟩
    · cases h
  · rintro ⟨lvl, d, rfl, rfl⟩
    simp [readED, bytes32, Except.map]

theorem readDD_eq_ok_iff {mk : Duration → Duration → Instr} :
    readDD mk l = .ok i ↔ ∃ d n, l = bytes32 d ++ bytes32 n ∧ mk d n = i := by
  constructor
  · intro h
    unfold readDD at h
    split at h
    · next a b c d e f g k =>
      cases h
      exact ⟨be32 a b c d, be32 e f g k, by simp, rfl⟩
    · cases h
  · rintro ⟨d, n, rfl, rfl⟩
    simp [readDD, bytes32]

theorem readMdecAdv_eq_ok_iff :
    readMdecAdv l = .ok i ↔ ∃ m k, l = [m.toByte, k.toByte] ∧ .mdecAdv m k = i := by
  unfold readMdecAdv
  split
  · simp [except_bind_eq_ok_iff, except_map_eq_ok_iff, readMds_eq_ok_iff, readKind_eq_ok_iff,
      and_assoc]
  · simp_all

theorem readMencAdv_eq_ok_iff :
    readMencAdv l = .ok i ↔ ∃ m b, l = [m.toByte, bitToByte b] ∧ .mencAdv m b = i := by
  unfold readMencAdv
  split
  · simp [except_bind_eq_ok_iff, except_map_eq_ok_iff, readMes_eq_ok_iff, readBit_eq_ok_iff,
      and_assoc]
  · simp_all

theorem readMencFinish_eq_ok_iff :
    readMencFinish l = .ok i ↔ ∃ m : MeState, l = [m.toByte] ∧ .mencFinish m = i := by
  unfold readMencFinish
  split
  · simp [except_map_eq_ok_iff, readMes_eq_ok_iff]
  · simp_all

theorem readCrc_eq_ok_iff {mk : Byte → Byte → List Byte → Instr} :
    readCrc mk l = .ok i ↔ ∃ poly init data,
      l = poly :: init :: BitVec.ofNat 8 data.length :: data ∧ crcDataOk data = true ∧
        mk poly init data = i := by
  constructor
  · intro h
    unfold readCrc at h
    split at h
    · next poly init len data =>
      split at h
      · next hlen =>
        obtain ⟨rfl, hok⟩ := length_eq_len_iff.mp hlen
        cases h
        exact ⟨poly, init, data, rfl, hok, rfl⟩
      · cases h
    · cases h
  · rintro ⟨poly, init, data, rfl, hok, rfl⟩
    exact if_pos (length_eq_len_iff.mpr ⟨rfl, hok⟩)

theorem readPktParse_eq_ok_iff :
    readPktParse l = .ok i ↔
      (l = [0#8] ∧ .pktParse .dec = i) ∨
        ∃ key : Packet, l = 1#8 :: key.toList ∧ .pktParse (.buf key) = i := by
  unfold readPktParse
  split
  · next s rest =>
    simp only [except_bind_eq_ok_iff, readBit_eq_ok_iff, Bool.exists_bool, Bool.false_eq_true,
      if_false, if_true, readZ_eq_ok_iff, except_map_eq_ok_iff, readKey_eq_ok_iff, bitToByte,
      List.cons.injEq, exists_and_left, and_assoc]
  · simp_all

theorem readEncLoad_eq_ok_iff :
    readEncLoad l = .ok i ↔ ∃ kv rv n rep key,
      l = flagsByte kv rv :: (bytes16 n ++ bytes32 rep ++ Vector.toList key) ∧
        .encLoad kv rv n rep key = i := by
  constructor
  · intro h
    unfold readEncLoad at h
    split at h
    · next fl b1 b0 r3 r2 r1 r0 rest =>
      split at h
      · next hfl =>
        obtain ⟨key, hkey, hi⟩ := except_map_eq_ok_iff.mp h
        refine ⟨_, _, be16 b1 b0, be32 r3 r2 r1 r0, key, ?_, hi⟩
        rw [bytes16_be16, bytes32_be32, ← readKey_eq_ok_iff.mp hkey,
          ← flags_iff_eq_flagsByte.mp ⟨hfl, rfl, rfl⟩]
        rfl
      · cases h
    · cases h
  · rintro ⟨kv, rv, n, rep, key, rfl, rfl⟩
    obtain ⟨hfl, hkv, hrv⟩ := flags_iff_eq_flagsByte.mpr (rfl : flagsByte kv rv = _)
    simpa [readEncLoad, bytes16, bytes32, hfl, Except.map] using And.intro hkv hrv

end

/-! ## Decoder and encoder undo each other (R91 to R93) -/

/-- R92: a byte is the opcode of one of the 16 operations. -/
inductive IsOpcode : Byte → Prop
  | matchDur : IsOpcode 0x10#8
  | mdecReset : IsOpcode 0x20#8
  | mdecAdv : IsOpcode 0x21#8
  | mencReset : IsOpcode 0x24#8
  | mencAdv : IsOpcode 0x25#8
  | mencFinish : IsOpcode 0x26#8
  | decReset : IsOpcode 0x30#8
  | decFeed : IsOpcode 0x31#8
  | decSetcb : IsOpcode 0x32#8
  | crc8Msb : IsOpcode 0x40#8
  | crc8Lsb : IsOpcode 0x41#8
  | pktParse : IsOpcode 0x42#8
  | pktSerialize : IsOpcode 0x43#8
  | encLoad : IsOpcode 0x50#8
  | encYield : IsOpcode 0x51#8
  | encStop : IsOpcode 0x52#8

theorem isOpcode_iff {op : Byte} :
    IsOpcode op ↔ op ∈ [0x10#8, 0x20#8, 0x21#8, 0x24#8, 0x25#8, 0x26#8, 0x30#8, 0x31#8, 0x32#8,
      0x40#8, 0x41#8, 0x42#8, 0x43#8, 0x50#8, 0x51#8, 0x52#8] := by
  constructor
  · rintro ⟨⟩ <;> decide
  · simp only [List.mem_cons, List.not_mem_nil, or_false]
    rintro (rfl | rfl | rfl | rfl | rfl | rfl | rfl | rfl | rfl | rfl | rfl | rfl | rfl | rfl |
      rfl | rfl) <;> constructor

/-- R92, R98: an operation is read after a listed opcode only. -/
theorem isOpcode_of_decodeOp_ok {op : Byte} {l : List Byte} {i : Instr}
    (h : decodeOp op l = .ok i) : IsOpcode op := by
  by_contra hop
  simp only [isOpcode_iff, List.mem_cons, List.not_mem_nil, or_false, not_or] at hop
  simp [decodeOp, hop] at h

/-- What the decoder reads is a well-formed operation, and the frame is its frame. -/
theorem encode_of_decodeOp_ok {op : Byte} {l : List Byte} {i : Instr} (h : decodeOp op l = .ok i) :
    encode i = op :: l ∧ i.wellFormed = true := by
  cases isOpcode_of_decodeOp_ok h with
  | mdecReset | mencReset | decReset | pktSerialize | encYield | encStop =>
    obtain ⟨rfl, rfl⟩ := readZ_eq_ok_iff.mp h
    exact ⟨rfl, rfl⟩
  | matchDur =>
    obtain ⟨d, n, rfl, rfl⟩ := readDD_eq_ok_iff.mp h
    exact ⟨rfl, rfl⟩
  | mdecAdv =>
    obtain ⟨m, k, rfl, rfl⟩ := readMdecAdv_eq_ok_iff.mp h
    exact ⟨rfl, rfl⟩
  | mencAdv =>
    obtain ⟨m, b, rfl, rfl⟩ := readMencAdv_eq_ok_iff.mp h
    exact ⟨rfl, rfl⟩
  | mencFinish =>
    obtain ⟨m, rfl, rfl⟩ := readMencFinish_eq_ok_iff.mp h
    exact ⟨rfl, rfl⟩
  | decFeed =>
    obtain ⟨lvl, d, rfl, rfl⟩ := readED_eq_ok_iff.mp h
    exact ⟨rfl, rfl⟩
  | decSetcb =>
    obtain ⟨en, rfl, rfl⟩ := readB_eq_ok_iff.mp h
    exact ⟨rfl, rfl⟩
  | crc8Msb | crc8Lsb =>
    obtain ⟨poly, init, data, rfl, hok, rfl⟩ := readCrc_eq_ok_iff.mp h
    exact ⟨rfl, hok⟩
  | pktParse =>
    obtain ⟨rfl, rfl⟩ | ⟨key, rfl, rfl⟩ := readPktParse_eq_ok_iff.mp h
    · exact ⟨rfl, rfl⟩
    · exact ⟨rfl, rfl⟩
  | encLoad =>
    obtain ⟨kv, rv, n, rep, key, rfl, rfl⟩ := readEncLoad_eq_ok_iff.mp h
    exact ⟨rfl, rfl⟩

/-- The decoder reads every well-formed operation back from its own opcode and operand bytes. -/
theorem decodeOp_opcode_operandBytes {i : Instr} (h : i.wellFormed = true) :
    decodeOp i.opcode i.operandBytes = .ok i := by
  cases i with
  | mdecReset | mencReset | decReset | pktSerialize | encYield | encStop => rfl
  | matchDur d n => exact readDD_eq_ok_iff.mpr ⟨d, n, rfl, rfl⟩
  | mdecAdv m k => exact readMdecAdv_eq_ok_iff.mpr ⟨m, k, rfl, rfl⟩
  | mencAdv m b => exact readMencAdv_eq_ok_iff.mpr ⟨m, b, rfl, rfl⟩
  | mencFinish m => exact readMencFinish_eq_ok_iff.mpr ⟨m, rfl, rfl⟩
  | decFeed lvl d => exact readED_eq_ok_iff.mpr ⟨lvl, d, rfl, rfl⟩
  | decSetcb en => exact readB_eq_ok_iff.mpr ⟨en, rfl, rfl⟩
  | crc8Msb poly init data | crc8Lsb poly init data =>
    exact readCrc_eq_ok_iff.mpr ⟨poly, init, data, rfl, h, rfl⟩
  | pktParse src =>
    cases src with
    | dec => rfl
    | buf key => exact readPktParse_eq_ok_iff.mpr (.inr ⟨key, rfl, rfl⟩)
  | encLoad kv rv n rep key => exact readEncLoad_eq_ok_iff.mpr ⟨kv, rv, n, rep, key, rfl, rfl⟩

/-- Settles O1, by the format of each operation's row. -/
theorem decodeOfEncode : Obligations.DecodeOfEncode := by
  intro i hi
  exact decodeOp_opcode_operandBytes hi

/-- Settles O2, by the opcode and then the format of its row. -/
theorem encodeOfDecode : Obligations.EncodeOfDecode := by
  intro f i h
  cases f with
  | nil => cases h
  | cons op rest => exact encode_of_decodeOp_ok h

/-! ## Which operand bytes each format accepts (R91, R93, R98) -/

/-- R93, R98: the bits from `k` up are zero exactly where the byte's number is below `2 ^ k`. -/
theorem ushiftRight_eq_zero_iff_lt {x : Byte} (k : Nat) : x >>> k = 0#8 ↔ x.toNat < 2 ^ k := by
  rw [← BitVec.toNat_inj, BitVec.toNat_ushiftRight, Nat.shiftRight_eq_div_pow, BitVec.toNat_ofNat,
    Nat.zero_mod, Nat.div_eq_zero_iff_lt (Nat.two_pow_pos k)]

theorem exists_bitToByte_iff {x : Byte} : (∃ b, bitToByte b = x) ↔ x.toNat < 2 := by
  revert x
  decide

theorem exists_kind_toByte_iff {x : Byte} : (∃ k : Kind, k.toByte = x) ↔ x.toNat < 4 := by
  constructor
  · rintro ⟨k, rfl⟩
    cases k <;> decide
  · intro h
    exact ⟨_, (readKind_eq_ok_iff.mp (if_pos ((ushiftRight_eq_zero_iff_lt 2).mpr h))).symm⟩

theorem exists_mdState_toByte_iff {x : Byte} : (∃ m : MdState, m.toByte = x) ↔ x.toNat < 4 := by
  constructor
  · rintro ⟨⟨_ | _, _ | _⟩, rfl⟩ <;> decide
  · intro h
    exact ⟨_, (readMds_eq_ok_iff.mp (if_pos ((ushiftRight_eq_zero_iff_lt 2).mpr h))).symm⟩

theorem exists_meState_toByte_iff {x : Byte} : (∃ m : MeState, m.toByte = x) ↔ x.toNat < 8 := by
  constructor
  · rintro ⟨⟨_ | _ | _ | _, _ | _⟩, rfl⟩ <;> decide
  · intro h
    exact ⟨_, (readMes_eq_ok_iff.mp (if_pos ((ushiftRight_eq_zero_iff_lt 3).mpr h))).symm⟩

theorem exists_flagsByte_iff {x : Byte} : (∃ kv rv, flagsByte kv rv = x) ↔ x.toNat < 4 := by
  revert x
  decide

theorem exists_packet_toList_iff {l : List Byte} :
    (∃ key : Packet, key.toList = l) ↔ l.length = 22 := by
  constructor
  · rintro ⟨key, rfl⟩
    exact Vector.length_toList
  · intro h
    exact ⟨_, (readKey_eq_ok_iff.mp (dif_pos h)).symm⟩

/-- The number of operand byte `i`, as the legal frames of R98 read it. -/
abbrev operandNat (l : List Byte) (i : Nat) : Nat := ((l[i]?).getD 0#8).toNat

section
variable {l : List Byte}

theorem exists_readZ_ok_iff {j : Instr} : (∃ i, readZ j l = .ok i) ↔ l.length = 0 := by
  simp [readZ_eq_ok_iff]

theorem exists_readB_ok_iff {mk : Bool → Instr} :
    (∃ i, readB mk l = .ok i) ↔ l.length = 1 ∧ operandNat l 0 < 2 := by
  constructor
  · rintro ⟨i, h⟩
    obtain ⟨b, rfl, -⟩ := readB_eq_ok_iff.mp h
    exact ⟨rfl, exists_bitToByte_iff.mp ⟨b, rfl⟩⟩
  · rintro ⟨hl, hb⟩
    obtain ⟨x, rfl⟩ := List.length_eq_one_iff.mp hl
    obtain ⟨b, rfl⟩ := exists_bitToByte_iff.mpr hb
    exact ⟨_, readB_eq_ok_iff.mpr ⟨b, rfl, rfl⟩⟩

theorem exists_readED_ok_iff {mk : Level → Duration → Instr} :
    (∃ i, readED mk l = .ok i) ↔ l.length = 5 ∧ operandNat l 0 < 2 := by
  constructor
  · rintro ⟨i, h⟩
    obtain ⟨lvl, d, rfl, -⟩ := readED_eq_ok_iff.mp h
    exact ⟨rfl, exists_bitToByte_iff.mp ⟨lvl, rfl⟩⟩
  · rintro ⟨hl, hlvl⟩
    match l, hl with
    | [x, a, b, c, d], _ =>
      obtain ⟨lvl, rfl⟩ := exists_bitToByte_iff.mpr hlvl
      exact ⟨_, readED_eq_ok_iff.mpr ⟨lvl, be32 a b c d, by rw [bytes32_be32], rfl⟩⟩

theorem exists_readDD_ok_iff {mk : Duration → Duration → Instr} :
    (∃ i, readDD mk l = .ok i) ↔ l.length = 8 := by
  constructor
  · rintro ⟨i, h⟩
    obtain ⟨d, n, rfl, -⟩ := readDD_eq_ok_iff.mp h
    rfl
  · intro hl
    match l, hl with
    | [a, b, c, d, e, f, g, k], _ => exact ⟨_, rfl⟩

theorem exists_readMdecAdv_ok_iff :
    (∃ i, readMdecAdv l = .ok i) ↔ l.length = 2 ∧ operandNat l 0 < 4 ∧ operandNat l 1 < 4 := by
  constructor
  · rintro ⟨i, h⟩
    obtain ⟨m, k, rfl, -⟩ := readMdecAdv_eq_ok_iff.mp h
    exact ⟨rfl, exists_mdState_toByte_iff.mp ⟨m, rfl⟩, exists_kind_toByte_iff.mp ⟨k, rfl⟩⟩
  · rintro ⟨hl, hm, hk⟩
    obtain ⟨x, y, rfl⟩ := List.length_eq_two.mp hl
    obtain ⟨m, rfl⟩ := exists_mdState_toByte_iff.mpr hm
    obtain ⟨k, rfl⟩ := exists_kind_toByte_iff.mpr hk
    exact ⟨_, readMdecAdv_eq_ok_iff.mpr ⟨m, k, rfl, rfl⟩⟩

theorem exists_readMencAdv_ok_iff :
    (∃ i, readMencAdv l = .ok i) ↔ l.length = 2 ∧ operandNat l 0 < 8 ∧ operandNat l 1 < 2 := by
  constructor
  · rintro ⟨i, h⟩
    obtain ⟨m, b, rfl, -⟩ := readMencAdv_eq_ok_iff.mp h
    exact ⟨rfl, exists_meState_toByte_iff.mp ⟨m, rfl⟩, exists_bitToByte_iff.mp ⟨b, rfl⟩⟩
  · rintro ⟨hl, hm, hb⟩
    obtain ⟨x, y, rfl⟩ := List.length_eq_two.mp hl
    obtain ⟨m, rfl⟩ := exists_meState_toByte_iff.mpr hm
    obtain ⟨b, rfl⟩ := exists_bitToByte_iff.mpr hb
    exact ⟨_, readMencAdv_eq_ok_iff.mpr ⟨m, b, rfl, rfl⟩⟩

theorem exists_readMencFinish_ok_iff :
    (∃ i, readMencFinish l = .ok i) ↔ l.length = 1 ∧ operandNat l 0 < 8 := by
  constructor
  · rintro ⟨i, h⟩
    obtain ⟨m, rfl, -⟩ := readMencFinish_eq_ok_iff.mp h
    exact ⟨rfl, exists_meState_toByte_iff.mp ⟨m, rfl⟩⟩
  · rintro ⟨hl, hm⟩
    obtain ⟨x, rfl⟩ := List.length_eq_one_iff.mp hl
    obtain ⟨m, rfl⟩ := exists_meState_toByte_iff.mpr hm
    exact ⟨_, readMencFinish_eq_ok_iff.mpr ⟨m, rfl, rfl⟩⟩

theorem exists_readCrc_ok_iff {mk : Byte → Byte → List Byte → Instr} :
    (∃ i, readCrc mk l = .ok i) ↔ 3 ≤ l.length ∧ l.length = 3 + operandNat l 2 := by
  constructor
  · rintro ⟨i, h⟩
    obtain ⟨poly, init, data, rfl, hok, -⟩ := readCrc_eq_ok_iff.mp h
    have hlen := Laws.len_toNat hok
    simp only [operandNat, List.length_cons, List.getElem?_cons_succ, List.getElem?_cons_zero,
      Option.getD_some]
    omega
  · rintro ⟨hl, hlen⟩
    match l, hl with
    | poly :: init :: len :: data, _ =>
      have hdata : data.length = len.toNat := by
        simp only [operandNat, List.length_cons, List.getElem?_cons_succ, List.getElem?_cons_zero,
          Option.getD_some] at hlen
        omega
      exact ⟨_, if_pos hdata⟩

theorem exists_readPktParse_ok_iff :
    (∃ i, readPktParse l = .ok i) ↔
      (l.length = 1 ∧ operandNat l 0 = 0) ∨ (l.length = 23 ∧ operandNat l 0 = 1) := by
  constructor
  · rintro ⟨i, h⟩
    obtain ⟨rfl, -⟩ | ⟨key, rfl, -⟩ := readPktParse_eq_ok_iff.mp h
    · exact .inl ⟨rfl, rfl⟩
    · exact .inr ⟨by simp, rfl⟩
  · rintro (⟨hl, hs⟩ | ⟨hl, hs⟩)
    · obtain ⟨x, rfl⟩ := List.length_eq_one_iff.mp hl
      obtain rfl : x = 0#8 := BitVec.eq_of_toNat_eq hs
      exact ⟨_, readPktParse_eq_ok_iff.mpr (.inl ⟨rfl, rfl⟩)⟩
    · match l, hl with
      | x :: rest, hl =>
        obtain rfl : x = 1#8 := BitVec.eq_of_toNat_eq hs
        obtain ⟨key, rfl⟩ := exists_packet_toList_iff.mpr (Nat.succ.inj hl)
        exact ⟨_, readPktParse_eq_ok_iff.mpr (.inr ⟨key, rfl, rfl⟩)⟩

theorem exists_readEncLoad_ok_iff :
    (∃ i, readEncLoad l = .ok i) ↔ l.length = 29 ∧ operandNat l 0 < 4 := by
  constructor
  · rintro ⟨i, h⟩
    obtain ⟨kv, rv, n, rep, key, rfl, -⟩ := readEncLoad_eq_ok_iff.mp h
    exact ⟨by simp [bytes16, bytes32], exists_flagsByte_iff.mp ⟨kv, rv, rfl⟩⟩
  · rintro ⟨hl, hfl⟩
    match l, hl with
    | x :: b1 :: b0 :: r3 :: r2 :: r1 :: r0 :: rest, hl =>
      obtain ⟨kv, rv, rfl⟩ := exists_flagsByte_iff.mpr hfl
      obtain ⟨key, rfl⟩ := exists_packet_toList_iff.mpr (by simpa using hl : rest.length = 22)
      exact ⟨_, readEncLoad_eq_ok_iff.mpr
        ⟨kv, rv, be16 b1 b0, be32 r3 r2 r1 r0, key, by simp, rfl⟩⟩

end

/-! ## The legal frames (R98) -/

/-- R92, R98: a legal frame has a listed opcode. -/
theorem isOpcode_of_legalFrame {op : Byte} {l : List Byte}
    (h : Spec.legalFrame (op :: l) = true) : IsOpcode op := by
  by_contra hop
  simp only [isOpcode_iff, List.mem_cons, List.not_mem_nil, or_false, not_or, ← BitVec.toNat_inj,
    BitVec.toNat_ofNat, Nat.reducePow, Nat.reduceMod] at hop
  simp [Spec.legalFrame, hop] at h

/-- R91, R93: after a listed opcode the decoder accepts exactly the operand bytes of its format. -/
theorem exists_decodeOp_ok_iff {op : Byte} (hop : IsOpcode op) (l : List Byte) :
    (∃ i, decodeOp op l = .ok i) ↔ Spec.legalFrame (op :: l) = true := by
  cases hop with
  | mdecReset | mencReset | decReset | pktSerialize | encYield | encStop =>
    exact exists_readZ_ok_iff.trans (by simp [Spec.legalFrame])
  | matchDur => exact exists_readDD_ok_iff.trans (by simp [Spec.legalFrame])
  | mdecAdv => exact exists_readMdecAdv_ok_iff.trans (by simp [Spec.legalFrame, and_assoc])
  | mencAdv => exact exists_readMencAdv_ok_iff.trans (by simp [Spec.legalFrame, and_assoc])
  | mencFinish => exact exists_readMencFinish_ok_iff.trans (by simp [Spec.legalFrame])
  | decFeed => exact exists_readED_ok_iff.trans (by simp [Spec.legalFrame])
  | decSetcb => exact exists_readB_ok_iff.trans (by simp [Spec.legalFrame])
  | crc8Msb | crc8Lsb => exact exists_readCrc_ok_iff.trans (by simp [Spec.legalFrame])
  | pktParse => exact exists_readPktParse_ok_iff.trans (by simp [Spec.legalFrame])
  | encLoad => exact exists_readEncLoad_ok_iff.trans (by simp [Spec.legalFrame])

/-- Settles O3, by the opcode: a listed one has its format (R91), another has no legal frame. -/
theorem legalFramesDecode : Obligations.LegalFramesDecode := by
  intro f
  cases f with
  | nil => simp [decode, Spec.legalFrame]
  | cons op rest =>
    by_cases hop : IsOpcode op
    · exact exists_decodeOp_ok_iff hop rest
    · refine iff_of_false ?_ (mt isOpcode_of_legalFrame hop)
      rintro ⟨i, h⟩
      exact hop (isOpcode_of_decodeOp_ok h)

/-- Settles O5, by running the decoder on each of the eight frames. -/
theorem writtenFramesDecode : Obligations.WrittenFramesDecode := by
  refine ⟨?_, ?_, ?_, ?_, ?_, ?_, ?_, ?_⟩ <;> decide

end Sys2Proof

namespace Sys2Proof.Machine

/-! ## Illegal frames at the port (R98) -/

/-- R98: a frame that spells no operation is taken and answered with `ILLEGAL_OP`. -/
theorem step_of_decode_error {s : State} {f : List Byte} {rest : List (List Byte)} {e : DecodeError}
    (hq : s.port.inq = f :: rest) (hd : decode f = .error e) :
    step s = .next (answerIllegal { s with port := { s.port with inq := rest } }) := by
  simp only [step, fetch_cons hq, hd]

/-- Settles O4: a frame that is not legal does not decode (O3), so the step answers it. -/
theorem illegalFrameAnswered : Obligations.IllegalFrameAnswered := by
  intro s f rest hq hf
  cases hd : decode f with
  | ok i =>
    have hlegal : Spec.legalFrame f = true := (legalFramesDecode f).mp ⟨i, hd⟩
    exact absurd hlegal (by simp [hf])
  | error e => exact step_of_decode_error hq hd

end Sys2Proof.Machine
end

section
/-! PROOFS. The statements of the timing classifier family (40_timing_classifier.md): what MATCH
answers (R121), and the open interval of the durations that match a nominal (R123). -/

namespace Sys2Proof.Machine

/-! ## The operation MATCH -/

/-- R120, R124: the comparison on exact integers is the classifier's predicate. -/
theorem near_eq_durMatches (c : Config) (d : Duration) (n : Nat) :
    Spec.near c d n = durMatches c d.toNat n := by
  rw [Bool.eq_iff_iff, durMatches_iff, Spec.near, decide_eq_true_iff, abs_sub_lt_iff]
  omega

/-- R121: MATCH answers the predicate's value as one byte, and writes nothing else. -/
theorem exec_matchDur (d n : Duration) (s : State) :
    exec (.matchDur d n) s =
      .next (Spec.replies s [0x00#8, bitToByte (durMatches s.cfg d.toNat n.toNat)]) := rfl

/-- Settles O17: the frame is the operation's encoding (O1), and the answer's bit is the comparison
on integers. -/
theorem matchAnswers : Obligations.MatchAnswers := by
  intro d n s
  constructor
  · exact decodeOfEncode (.matchDur d n) rfl
  · rw [exec_matchDur, near_eq_durMatches, bitToByte]

/-! ## The durations that match a nominal -/

/-- R123: the matching durations are `max(0, n - TE_DELTA + 1) .. n + TE_DELTA - 1`. -/
theorem filter_durMatches_eq_Ico (c : Config) (n : Nat) :
    ((Finset.range (n + c.teDelta.toNat)).filter fun d => durMatches c d n = true) =
      Finset.Ico (n + 1 - c.teDelta.toNat) (n + c.teDelta.toNat) := by
  ext d
  rw [Finset.mem_filter, Finset.mem_range, Finset.mem_Ico, durMatches_iff]
  omega

/-- R123: how many durations match a nominal whose window is not cut off at 0. -/
theorem card_filter_durMatches {c : Config} {n : Nat} (hn : c.teDelta.toNat ≤ n) :
    ((Finset.range (n + c.teDelta.toNat)).filter fun d => durMatches c d n = true).card =
      2 * c.teDelta.toNat - 1 := by
  rw [filter_durMatches_eq_Ico, Nat.card_Ico]
  omega

/-- Settles O18: each end is decided by the two inequalities of the interval, and the members are
counted as an interval of naturals. -/
theorem matchBoundary : Obligations.MatchBoundary := by
  intro c n hpos
  have interval (d : Nat) :
      durMatches c d n = true ↔ n < d + c.teDelta.toNat ∧ d < n + c.teDelta.toNat :=
    (durMatches_iff c d n).trans and_comm
  have upper_out : durMatches c (n + c.teDelta.toNat) n = false :=
    (durMatches_false_iff c _ n).mpr (.inl le_rfl)
  have upper_in : durMatches c (n + c.teDelta.toNat - 1) n = true :=
    (interval _).mpr (by omega)
  refine ⟨interval, upper_out, upper_in, fun hn => ⟨?lower_out, ?lower_in, ?count⟩⟩
  case lower_out => exact (durMatches_false_iff c _ n).mpr (.inr (by omega))
  case lower_in => exact (interval _).mpr (by omega)
  case count => exact card_filter_durMatches hn

end Sys2Proof.Machine
end

section
/-! PROOFS. The statements of the line coder family (41_manchester.md): the five operations at the
port (R144, R145, R152 to R157), the kind stream of the encoder (R159), and that the decoder inverts
it (R160). -/

namespace Sys2Proof.Machine

/-! ## The kinds of a level (R95, R159) -/

@[simp] theorem levelOf_shortKind (l : Level) : levelOf (shortKind l) = l := by cases l <;> rfl

@[simp] theorem levelOf_longKind (l : Level) : levelOf (longKind l) = l := by cases l <;> rfl

@[simp] theorem isLong_shortKind (l : Level) : isLong (shortKind l) = false := by cases l <;> rfl

@[simp] theorem isLong_longKind (l : Level) : isLong (longKind l) = true := by cases l <;> rfl

/-- R141: a cell ends at the level of its wire bit. -/
@[simp] theorem secondHalf_eq (w : Bool) : secondHalf w = w := Bool.not_not w

/-! ## The kind stream of the encoder (R159) -/

/-- R159: the closing short. -/
theorem streamRest_nil (p : Bool) : Spec.streamRest p [] = [shortKind p] := rfl

/-- R159: a wire bit equal to the one before it: the rest of the last cell and the first half of its
own. -/
theorem streamRest_cons_self (p : Bool) (ws : List Bool) :
    Spec.streamRest p (p :: ws) = shortKind p :: shortKind (!p) :: Spec.streamRest p ws := by
  cases p <;> rfl

/-- R159: a wire bit that differs from the one before it: one long, over both cells. -/
theorem streamRest_cons_not (p : Bool) (ws : List Bool) :
    Spec.streamRest p ((!p) :: ws) = longKind p :: Spec.streamRest (!p) ws := by
  cases p <;> rfl

/-- R159: the stream begins with the first half of the first cell. -/
theorem stream_cons (w : Bool) (ws : List Bool) :
    Spec.stream (w :: ws) = shortKind (!w) :: Spec.streamRest w ws := by
  cases w <;> rfl

/-- R157: the flush of a step that is not corrupt. -/
theorem mencFlush_of_ne_corrupt {step : MeStep} (h : step ≠ .corrupt) (prev : Bool) :
    mencFlush { step := step, prev := prev } =
      some ({ step := .start, prev := prev }, shortKind prev) := by
  cases step with
  | start | halfOut | cellOut => simp [mencFlush]
  | corrupt => exact absurd rfl h

/-- R158, R159: after a wire bit `p`, the kinds of the further bits and the flush are the
stream's. -/
theorem mencBits_halfOut_streamRest (p : Bool) (ws : List Bool) :
    ∃ q ks,
      mencBits { step := .halfOut, prev := p } ws = some ({ step := .halfOut, prev := q }, ks) ∧
      ks ++ [shortKind q] = Spec.streamRest p ws := by
  induction ws generalizing p with
  | nil => exact ⟨p, [], rfl, rfl⟩
  | cons w ws ih =>
    obtain ⟨q, ks, hks, hstream⟩ := ih w
    refine ⟨q, _, mencBits_cons (mencBit_halfOut p w) hks, ?_⟩
    rw [List.append_assoc, hstream]
    obtain rfl | rfl := Bool.eq_or_eq_not w p
    · simp [streamRest_cons_self, firstHalf]
    · simp [streamRest_cons_not]

/-- R158, R159: the kinds of a nonempty bit string and the flush are its stream. -/
theorem mencBits_start_stream {ws : List Bool} (hws : ws ≠ []) :
    ∃ q ks, mencBits mencStart ws = some ({ step := .halfOut, prev := q }, ks) ∧
      ks ++ [shortKind q] = Spec.stream ws := by
  obtain ⟨w, ws, rfl⟩ := List.exists_cons_of_ne_nil hws
  obtain ⟨q, ks, hks, hstream⟩ := mencBits_halfOut_streamRest w ws
  refine ⟨q, _, mencBits_cons (mencBit_start false w) hks, ?_⟩
  rw [stream_cons, ← hstream]
  rfl

/-! ## The count and the levels of the stream (R159) -/

theorem equalPairs_cons_cons (w v : Bool) (ws : List Bool) :
    Spec.equalPairs (w :: v :: ws) = (if v = w then 1 else 0) + Spec.equalPairs (v :: ws) := rfl

/-- R159: one kind for each further bit, one more where it is equal, and the flush. -/
theorem streamRest_length (p : Bool) (ws : List Bool) :
    (Spec.streamRest p ws).length = ws.length + 1 + Spec.equalPairs (p :: ws) := by
  induction ws generalizing p with
  | nil => rfl
  | cons w ws ih =>
    rw [equalPairs_cons_cons]
    obtain rfl | rfl := Bool.eq_or_eq_not w p
    · simp only [streamRest_cons_self, List.length_cons, ih, if_true]
      omega
    · simp only [streamRest_cons_not, List.length_cons, ih, Bool.not_eq_self, if_false]
      omega

theorem stream_length {ws : List Bool} (hws : ws ≠ []) :
    (Spec.stream ws).length = ws.length + 1 + Spec.equalPairs ws := by
  obtain ⟨w, ws, rfl⟩ := List.exists_cons_of_ne_nil hws
  rw [stream_cons, List.length_cons, streamRest_length, List.length_cons]
  omega

/-- R159: two kinds in a row have different levels. -/
abbrev LevelsAlternate (ks : List Kind) : Prop := ks.IsChain fun a b => levelOf a ≠ levelOf b

/-- R159: the kinds after a first half of a cell `p` go on at the other level and alternate. -/
theorem levelsAlternate_cons_streamRest {p : Bool} {k : Kind} (hk : levelOf k = !p)
    (ws : List Bool) : LevelsAlternate (k :: Spec.streamRest p ws) := by
  induction ws generalizing p k with
  | nil =>
    rw [streamRest_nil]
    exact List.isChain_pair.mpr (by simp [hk])
  | cons w ws ih =>
    obtain rfl | rfl := Bool.eq_or_eq_not w p
    · rw [streamRest_cons_self]
      exact .cons_cons (by simp [hk]) (.cons_cons (by simp) (ih (levelOf_shortKind _)))
    · rw [streamRest_cons_not]
      exact .cons_cons (by simp [hk]) (ih (by simp))

theorem levelsAlternate_stream (ws : List Bool) : LevelsAlternate (Spec.stream ws) := by
  cases ws with
  | nil => exact .nil
  | cons w ws =>
    rw [stream_cons]
    exact levelsAlternate_cons_streamRest (levelOf_shortKind _) ws

/-- Settles O24: the encoder emits the closed form, whose count and levels go by induction on the
wire bits. -/
theorem encodeStreamProperty : Obligations.EncodeStreamProperty := by
  intro ws hws
  obtain ⟨q, ks, hks, hstream⟩ := mencBits_start_stream hws
  refine ⟨_, ks, _, shortKind q, hks, mencFlush_of_ne_corrupt (by decide) q, hstream,
    rfl, ?count, ?levels⟩
  case count => rw [hstream, stream_length hws]
  case levels =>
    rw [hstream]
    intro i a b ha hb
    obtain ⟨hi, rfl⟩ := List.getElem?_eq_some_iff.mp ha
    obtain ⟨hi', rfl⟩ := List.getElem?_eq_some_iff.mp hb
    exact List.isChain_iff_getElem.mp (levelsAlternate_stream ws) i hi'

/-! ## The decoder on the stream (R160) -/

/-- One kind, then the others. -/
theorem mdecRun_cons {m m1 m2 : MdState} {k : Kind} {ks : List Kind} {res : MdRes}
    {rest : List MdRes} (hk : mdecAdvance m k = (m1, res))
    (hks : Spec.mdecRun m1 ks = (m2, rest)) :
    Spec.mdecRun m (k :: ks) = (m2, res :: rest) := by
  simp only [Spec.mdecRun, hk, hks]

/-- R145: a short with nothing pending is a first half. -/
theorem mdecAdvance_start_short (l : Level) :
    mdecAdvance mdecStart (shortKind l) = ({ pend := true, lvl := l }, .nothing) := by
  rw [mdecStart, mdecAdvance_boundary]
  simp

/-- R145: a short of the other level completes the pending cell. -/
theorem mdecAdvance_pending_short (p : Bool) :
    mdecAdvance { pend := true, lvl := !p } (shortKind p) = (mdecStart, .bit !p) := by
  rw [mdecAdvance_pending]
  simp

/-- R145: a long of the other level completes the pending cell and begins the next. -/
theorem mdecAdvance_pending_long (p : Bool) :
    mdecAdvance { pend := true, lvl := !p } (longKind p) =
      ({ pend := true, lvl := p }, .bit !p) := by
  rw [mdecAdvance_pending]
  simp

/-- R160: what the kinds after a first half of the cell `p` resolve: its NOT, where the next bit is
equal nothing for that bit's first half, and so on. -/
def resolvedRest (p : Bool) : List Bool → List MdRes
  | [] => [.bit !p]
  | w :: ws =>
    if w = p then .bit (!p) :: .nothing :: resolvedRest w ws else .bit (!p) :: resolvedRest w ws

/-- R160: with the first half of the cell `p` pending, the rest of the stream resolves as listed and
leaves nothing pending. -/
theorem mdecRun_streamRest (p : Bool) (ws : List Bool) :
    Spec.mdecRun { pend := true, lvl := !p } (Spec.streamRest p ws) =
      (mdecStart, resolvedRest p ws) := by
  induction ws generalizing p with
  | nil => exact mdecRun_cons (mdecAdvance_pending_short p) rfl
  | cons w ws ih =>
    obtain rfl | rfl := Bool.eq_or_eq_not w p
    · rw [streamRest_cons_self, resolvedRest, if_pos rfl]
      exact mdecRun_cons (mdecAdvance_pending_short w)
        (mdecRun_cons (mdecAdvance_start_short _) (ih w))
    · rw [streamRest_cons_not, resolvedRest, if_neg (Bool.not_ne_self p)]
      refine mdecRun_cons (mdecAdvance_pending_long p) ?_
      simpa using ih (!p)

/-- R160: the stream of a nonempty bit string: the first kind resolves nothing. -/
theorem mdecRun_stream_cons (w : Bool) (ws : List Bool) :
    Spec.mdecRun mdecStart (Spec.stream (w :: ws)) =
      (mdecStart, .nothing :: resolvedRest w ws) := by
  rw [stream_cons]
  exact mdecRun_cons (mdecAdvance_start_short _) (mdecRun_streamRest w ws)

theorem violation_notMem_resolvedRest (p : Bool) (ws : List Bool) :
    MdRes.violation ∉ resolvedRest p ws := by
  induction ws generalizing p with
  | nil => simp [resolvedRest]
  | cons w ws ih =>
    rw [resolvedRest]
    split <;> simp [ih w]

theorem bitsOf_resolvedRest (p : Bool) (ws : List Bool) :
    Spec.bitsOf (resolvedRest p ws) = (p :: ws).map fun w => !w := by
  induction ws generalizing p with
  | nil => rfl
  | cons w ws ih =>
    rw [resolvedRest]
    split <;> simp [Spec.bitsOf, ih w]

theorem resolvedRest_getLast? (p : Bool) (ws : List Bool) :
    ∃ b, (resolvedRest p ws).getLast? = some (.bit b) := by
  induction ws generalizing p with
  | nil => exact ⟨!p, rfl⟩
  | cons w ws ih =>
    obtain ⟨b, hb⟩ := ih w
    refine ⟨b, ?_⟩
    rw [resolvedRest]
    split <;> simp [List.getLast?_cons, hb]

/-- Settles O25: the encoder emits the stream (R159), and the decoder resolves the stream bit by
bit. -/
theorem lineCoderInverse : Obligations.LineCoderInverse := by
  intro ws hws
  obtain ⟨q, ks, hks, hstream⟩ := mencBits_start_stream hws
  obtain ⟨w, ws, rfl⟩ := List.exists_cons_of_ne_nil hws
  obtain ⟨b, hb⟩ := resolvedRest_getLast? w ws
  refine ⟨_, ks, _, shortKind q, .nothing :: resolvedRest w ws, hks,
    mencFlush_of_ne_corrupt (by decide) q, ?run, ?noViolation, ?bits, rfl, b, ?last⟩
  case run => rw [hstream, mdecRun_stream_cons]
  case noViolation => simp [violation_notMem_resolvedRest]
  case bits => exact bitsOf_resolvedRest w ws
  case last => simp [List.getLast?_cons, hb]

/-! ## The operand and answer bytes (R39, R93, R95) -/

theorem twoBits_eq_toByte (p l : Bool) :
    Spec.twoBits p l = ({ pend := p, lvl := l } : MdState).toByte := by
  cases p <;> cases l <;> rfl

theorem kindCode_eq_toByte (k : Kind) : Spec.kindCode k = k.toByte := by
  cases k <;> rfl

theorem mesByte_eq_toByte (step : MeStep) (prev : Bool) :
    Spec.mesByte step.code.toNat prev = ({ step := step, prev := prev } : MeState).toByte := by
  cases step <;> cases prev <;> rfl

/-- R95: the code of a short is its level. -/
theorem shortKind_toByte (l : Level) : (shortKind l).toByte = if l then 1#8 else 0#8 := by
  cases l <;> rfl

theorem longKind_toByte (l : Level) : (longKind l).toByte = if l then 3#8 else 2#8 := by
  cases l <;> rfl

/-! ## The frames (R91) -/

theorem decode_mdecAdv_frame (p l : Bool) (k : Kind) :
    decode [0x21#8, Spec.twoBits p l, Spec.kindCode k] =
      .ok (.mdecAdv { pend := p, lvl := l } k) := by
  rw [twoBits_eq_toByte, kindCode_eq_toByte]
  exact decodeOfEncode (.mdecAdv _ k) rfl

theorem decode_mencAdv_frame (step : MeStep) (prev bit : Bool) :
    decode [0x25#8, Spec.mesByte step.code.toNat prev, if bit then 1#8 else 0#8] =
      .ok (.mencAdv { step := step, prev := prev } bit) := by
  rw [mesByte_eq_toByte]
  exact decodeOfEncode (.mencAdv _ bit) rfl

theorem decode_mencFinish_frame (step : MeStep) (prev : Bool) :
    decode [0x26#8, Spec.mesByte step.code.toNat prev] =
      .ok (.mencFinish { step := step, prev := prev }) := by
  rw [mesByte_eq_toByte]
  exact decodeOfEncode (.mencFinish _) rfl

/-! ## The resets and the advance of the decoder (R144, R145, R152) -/

/-- Settles O20: both frames are one byte long, and the answer is the byte of the start state. -/
theorem lineCoderResets : Obligations.LineCoderResets :=
  fun _ => ⟨⟨decodeOfEncode .mdecReset rfl, rfl⟩, ⟨decodeOfEncode .mencReset rfl, rfl⟩⟩

/-- R145: MDEC_ADV answers the primitive's value, and writes nothing else. -/
theorem exec_mdecAdv (m : MdState) (k : Kind) (s : State) :
    exec (.mdecAdv m k) s =
      .next (Spec.replies s (0x00#8 :: mdecAdvAnswer (mdecAdvance (readMdsOperand m) k))) := rfl

/-- R93, R145: the primitive's answer in each row of the rule's table. -/
theorem mdecAdvAnswer_of_mem_mdecTable {p l p' l' : Bool} {k : Kind} {res : Byte}
    (h : (p, l, k, p', l', res) ∈ Spec.mdecTable) :
    mdecAdvAnswer (mdecAdvance (readMdsOperand { pend := p, lvl := l }) k) =
      [Spec.twoBits p' l', res] := by
  fin_cases h <;> rfl

/-- Settles O21: the frame is the operation's encoding (O1), and the answer is the table's. -/
theorem mdecAdvFollowsTable : Obligations.MdecAdvFollowsTable := by
  intro s p l p' l' k res hrow
  refine ⟨decode_mdecAdv_frame p l k, ?_⟩
  rw [exec_mdecAdv, mdecAdvAnswer_of_mem_mdecTable hrow]

/-! ## The advance of the encoder (R153 to R156) -/

/-- R153: the first half of the first cell. -/
theorem mencAdvance_start (prev bit : Bool) :
    mencAdvance { step := .start, prev := prev } bit =
      some ({ step := .halfOut, prev := bit }, true, shortKind (!bit)) := rfl

/-- R154: an equal bit: the second half of the pending cell alone, and the bit is not consumed. -/
theorem mencAdvance_halfOut_self (prev : Bool) :
    mencAdvance { step := .halfOut, prev := prev } prev =
      some ({ step := .cellOut, prev := prev }, false, shortKind prev) := by
  simp [mencAdvance]

/-- R154: a bit that differs: the second half of the pending cell and the first of its own. -/
theorem mencAdvance_halfOut_ne {prev bit : Bool} (h : bit ≠ prev) :
    mencAdvance { step := .halfOut, prev := prev } bit =
      some ({ step := .halfOut, prev := bit }, true, longKind prev) := by
  simp [mencAdvance, h]

/-- R155: the first half of the cell held back. -/
theorem mencAdvance_cellOut (prev bit : Bool) :
    mencAdvance { step := .cellOut, prev := prev } bit =
      some ({ step := .halfOut, prev := bit }, true, shortKind (!bit)) := rfl

/-- R153 to R155: MENC_ADV answers the primitive's value, and writes nothing else. -/
theorem exec_mencAdv_some {m m' : MeState} {bit adv : Bool} {k : Kind}
    (h : mencAdvance m bit = some (m', adv, k)) (s : State) :
    exec (.mencAdv m bit) s =
      .next (Spec.replies s
        [0x00#8, Spec.mesByte m'.step.code.toNat m'.prev, bitToByte adv, k.toByte]) := by
  simp only [exec, execMencAdv, h, mesByte_eq_toByte]
  rfl

/-- Settles O22, by the advance of each step. -/
theorem mencAdvSteps : Obligations.MencAdvSteps := by
  intro s prev bit
  refine ⟨⟨decode_mencAdv_frame .start prev bit, ?start⟩,
    ⟨decode_mencAdv_frame .halfOut prev bit, ?equal, ?differ⟩,
    ⟨decode_mencAdv_frame .cellOut prev bit, ?cellOut⟩⟩
  case start =>
    rw [exec_mencAdv_some (mencAdvance_start prev bit), shortKind_toByte]
    cases bit <;> rfl
  case equal =>
    rintro rfl
    rw [exec_mencAdv_some (mencAdvance_halfOut_self bit), shortKind_toByte]
    rfl
  case differ =>
    intro hne
    rw [exec_mencAdv_some (mencAdvance_halfOut_ne hne), longKind_toByte]
    rfl
  case cellOut =>
    rw [exec_mencAdv_some (mencAdvance_cellOut prev bit), shortKind_toByte]
    cases bit <;> rfl

/-! ## The flush of the encoder, and the corrupt step (R156, R157) -/

/-- R157: MENC_FINISH at a step that is not corrupt answers the short of level `prev`. -/
theorem exec_mencFinish_of_ne_corrupt {step : MeStep} (h : step ≠ .corrupt) (prev : Bool)
    (s : State) :
    exec (.mencFinish { step := step, prev := prev }) s =
      .next (Spec.replies s [0x00#8, Spec.mesByte 0 prev, if prev then 1#8 else 0#8]) := by
  simp only [exec, execMencFinish, mencFlush_of_ne_corrupt h, mencFinishAnswer, shortKind_toByte,
    ← mesByte_eq_toByte]
  rfl

/-- R156: MENC_FINISH at the corrupt step. -/
theorem exec_mencFinish_corrupt (prev : Bool) (s : State) :
    exec (.mencFinish { step := .corrupt, prev := prev }) s = .next (Spec.replies s [0x05#8]) := rfl

/-- R156: MENC_ADV at the corrupt step. -/
theorem exec_mencAdv_corrupt (prev bit : Bool) (s : State) :
    exec (.mencAdv { step := .corrupt, prev := prev } bit) s =
      .next (Spec.replies s [0x05#8]) := rfl

/-- R156: no advance answers with the corrupt step. -/
theorem mencAdvance_step_ne_corrupt {m m' : MeState} {bit adv : Bool} {k : Kind}
    (h : mencAdvance m bit = some (m', adv, k)) : m'.step ≠ .corrupt := by
  by_cases hm : m.step = .corrupt
  · simp [mencAdvance, hm] at h
  · obtain ⟨m1, adv1, k1, hadv, hne⟩ := mencAdvance_ok m bit hm
    rw [h] at hadv
    cases hadv
    exact hne

/-- R156, R157: no flush answers with the corrupt step. -/
theorem mencFlush_step_ne_corrupt {m m' : MeState} {k : Kind} (h : mencFlush m = some (m', k)) :
    m'.step ≠ .corrupt := by
  obtain ⟨step, prev⟩ := m
  by_cases hm : step = .corrupt
  · simp [mencFlush, hm] at h
  · rw [mencFlush_of_ne_corrupt hm] at h
    cases h
    exact MeStep.noConfusion

/-- Settles O23: the three live steps flush alike, the corrupt one answers the violation, and
neither primitive answers with it. -/
theorem mencFinishAnswers : Obligations.MencFinishAnswers := by
  intro s prev
  refine ⟨?live, ⟨decode_mencFinish_frame .corrupt prev, exec_mencFinish_corrupt prev s⟩,
    fun bit => ⟨decode_mencAdv_frame .corrupt prev bit, exec_mencAdv_corrupt prev bit s⟩,
    ⟨raiseContractViolation_eFault s, raiseContractViolation_eActive s⟩,
    fun _ _ _ _ _ => ⟨mencAdvance_step_ne_corrupt, mencFlush_step_ne_corrupt⟩⟩
  case live =>
    intro step n hstep
    have hlive : step ≠ .corrupt ∧ step.code.toNat = n := by
      simp only [List.mem_cons, Prod.mk.injEq, List.not_mem_nil, or_false] at hstep
      obtain ⟨rfl, rfl⟩ | ⟨rfl, rfl⟩ | ⟨rfl, rfl⟩ := hstep <;> decide
    obtain ⟨hne, rfl⟩ := hlive
    exact ⟨decode_mencFinish_frame step prev, exec_mencFinish_of_ne_corrupt hne prev s⟩

end Sys2Proof.Machine
end

section
/-! PROOFS. The rules of the decoder state machine (42_decoder_fsm.md): what DEC_RESET and DEC_SETCB
write (R172, R173), and what one DEC_FEED does in each decoder state (R175 to R183). -/

namespace Sys2Proof.Machine

/-! ## DEC_RESET and DEC_SETCB (R172, R173) -/

/-- R173: DEC_RESET answers `OK` after a decoder reset, whatever the state. -/
theorem exec_decReset (s : State) :
    exec .decReset s = .next (Spec.replies { s with dec := decoderReset s.dec } [0x00#8]) := rfl

/-- R172: DEC_SETCB answers `OK` and writes `CB_EN`. -/
theorem exec_decSetcb (en : Bool) (s : State) :
    exec (.decSetcb en) s =
      .next (Spec.replies { s with dec := { s.dec with cbEn := en } } [0x00#8]) := rfl

/-- Settles O26: the frame is the operation's encoding (O1). -/
theorem decResetEffect : Obligations.DecResetEffect :=
  fun s => ⟨decodeOfEncode .decReset rfl, exec_decReset s⟩

/-- Settles O27: the frame is the operation's encoding (O1). -/
theorem decSetcbEffect : Obligations.DecSetcbEffect :=
  fun en s => ⟨decodeOfEncode (.decSetcb en) rfl, exec_decSetcb en s⟩

/-! ## DEC_FEED at the port, and its rule in each decoder state (R174) -/

/-- R174: DEC_FEED writes the decoder state that the edge gives, and answers `OK` with its pulse. -/
theorem exec_decFeed {l : Level} {d : Duration} {s : State} {x : DecState} {ready : Bool}
    (h : feedEdge s.cfg l d.toNat s.dec = some (x, ready)) :
    exec (.decFeed l d) s = .next (answerFeed ready { s with dec := x }) := by
  simp only [exec, execDecFeed, h]

section
variable {x : DecState} (c : Config) (l : Level) (d : Nat)

theorem feedEdge_rst (h : x.dstate = .rst) :
    feedEdge c l d x = some (feedRst c l d x, false) := by
  simp only [feedEdge, h]

theorem feedEdge_pas (h : x.dstate = .pas) :
    feedEdge c l d x = some (feedPas c l d x, false) := by
  simp only [feedEdge, h]

theorem feedEdge_phvl (h : x.dstate = .phvl) :
    feedEdge c l d x = some (feedPhvl c l d x, false) := by
  simp only [feedEdge, h]

theorem feedEdge_pal (h : x.dstate = .pal) :
    feedEdge c l d x = some (feedPal c l d x, false) := by
  simp only [feedEdge, h]

theorem feedEdge_fd (h : x.dstate = .fd) : feedEdge c l d x = feedFd c l d x := by
  simp only [feedEdge, h]

/-- R183: a held packet ignores the edge. -/
theorem feedEdge_cpl (h : x.dstate = .cpl) : feedEdge c l d x = some (x, false) := by
  simp only [feedEdge, h]

end

/-- Settles O28, by the rule of `RST`. -/
theorem feedInReset : Obligations.FeedInReset := by
  intro level d s hs
  rw [near_eq_durMatches]
  exact exec_decFeed (feedEdge_rst _ _ _ hs)

/-- Settles O29, by the rule of `PAS`. -/
theorem feedInPreamble : Obligations.FeedInPreamble := by
  intro level d s hs
  rw [near_eq_durMatches, near_eq_durMatches]
  exact exec_decFeed (feedEdge_pas _ _ _ hs)

/-- Settles O30, by the rule of `PHVL`. -/
theorem feedInMarker : Obligations.FeedInMarker := by
  intro level d s hs
  rw [near_eq_durMatches]
  exact exec_decFeed (feedEdge_phvl _ _ _ hs)

/-- Settles O31, by the rule of `PAL`; the priming event leaves `(1, 0)` (R148). -/
theorem feedInSync : Obligations.FeedInSync := by
  intro level d s hs
  rw [near_eq_durMatches, near_eq_durMatches]
  exact exec_decFeed (feedEdge_pal _ _ _ hs)

/-! ## The classification of an edge in `FD` (R179) -/

/-- R179: the classification on exact integers is the model's. -/
theorem dataKind_eq_classifyData (c : Config) (dcnt : BitVec 8) (l : Level) (d : Duration) :
    Spec.dataKind c dcnt.toNat l d = classifyData c dcnt l d.toNat := by
  have hlast : dcnt.toNat = 175 ↔ dcnt = 175#8 := by bv_omega
  simp only [Spec.dataKind, classifyData, near_eq_durMatches, Bool.or_eq_true, Bool.and_eq_true,
    beq_iff_eq, hlast]
  rfl

/-- R179: an edge is classified with its own level. -/
theorem levelOf_of_classifyData {c : Config} {dcnt : BitVec 8} {l : Level} {d : Nat} {k : Kind}
    (h : classifyData c dcnt l d = some k) : levelOf k = l := by
  unfold classifyData at h
  split at h
  · cases h; exact levelOf_shortKind l
  · split at h
    · cases h; exact levelOf_longKind l
    · cases h

/-- R179: an edge in `FD` that no window takes resets the decoder. -/
theorem feedEdge_fd_unclassified {c : Config} {l : Level} {d : Nat} {x : DecState}
    (hx : x.dstate = .fd) (h : classifyData c x.dcnt l d = none) :
    feedEdge c l d x = some (decoderReset x, false) := by
  simp only [feedEdge_fd c l d hx, feedFd, h]

/-- R179, R180: an edge in `FD` that is classified goes to the line coder. -/
theorem feedEdge_fd_classified {c : Config} {l : Level} {d : Nat} {x : DecState} {k : Kind}
    (hx : x.dstate = .fd) (h : classifyData c x.dcnt l d = some k) :
    feedEdge c l d x = feedKind k x := by
  simp only [feedEdge_fd c l d hx, feedFd, h]

/-- Settles O32, by the classification of the edge. -/
theorem feedDataClassifies : Obligations.FeedDataClassifies := by
  intro level d s hs
  rw [dataKind_eq_classifyData]
  constructor
  · intro hnone
    exact exec_decFeed (feedEdge_fd_unclassified hs hnone)
  · intro k hk
    exact feedEdge_fd_classified hs hk

/-! ## The line coder in `FD` (R180) -/

/-- R145: what is pending after an event that resolves a bit: the long's second part, or nothing. -/
def pendingAfter (k : Kind) : MdState :=
  if isLong k then { pend := true, lvl := levelOf k } else mdecStart

theorem pendingAfter_pend (k : Kind) : (pendingAfter k).pend = (k == .ll || k == .lh) := by
  cases k <;> rfl

theorem pendingAfter_lvl (k : Kind) : (pendingAfter k).lvl = (k == .lh) := by
  cases k <;> rfl

@[simp] theorem pendingAfter_shortKind (l : Level) : pendingAfter (shortKind l) = mdecStart := by
  simp [pendingAfter]

@[simp] theorem pendingAfter_longKind (l : Level) :
    pendingAfter (longKind l) = { pend := true, lvl := l } := by
  simp [pendingAfter]

section
variable {k : Kind} {x : DecState}

/-- R180: a long with nothing pending is a violation. -/
theorem feedKind_boundary_long (hp : x.mdPend = false) (hk : isLong k = true) :
    feedKind k x = some (decoderReset x, false) := by
  simp only [feedKind, hp, mdecAdvance_boundary, hk, if_true]

/-- R180: a short with nothing pending is a first half. -/
theorem feedKind_boundary_short (hp : x.mdPend = false) (hk : isLong k = false) :
    feedKind k x = some ({ x with mdPend := true, mdLvl := levelOf k }, false) := by
  simp [feedKind, hp, mdecAdvance_boundary, hk]

/-- R180: an event of the level of the pending half is a violation. -/
theorem feedKind_same_level (hp : x.mdPend = true) (hl : levelOf k = x.mdLvl) :
    feedKind k x = some (decoderReset x, false) := by
  simp only [feedKind, hp, mdecAdvance_pending, hl, if_true]

/-- R180: an event of the other level resolves the level of the pending half. -/
theorem feedKind_resolves (hp : x.mdPend = true) (hl : levelOf k ≠ x.mdLvl) :
    feedKind k x =
      feedBit x.mdLvl
        { x with mdPend := (pendingAfter k).pend, mdLvl := (pendingAfter k).lvl } := by
  simp only [feedKind, hp, mdecAdvance_pending, hl, if_false, pendingAfter]

end

theorem isLong_iff (k : Kind) : isLong k = true ↔ k = .ll ∨ k = .lh := by
  cases k <;> simp [isLong]

theorem isShort_iff (k : Kind) : isLong k = false ↔ k = .sl ∨ k = .sh := by
  cases k <;> simp [isLong]

/-- Settles O33: the edge goes to the line coder with its own level, and each clause is one case of
the line coder. -/
theorem feedDataLineCoder : Obligations.FeedDataLineCoder := by
  constructor
  · intro level d s k hs hk
    rw [dataKind_eq_classifyData] at hk
    have hfeed := feedEdge_fd_classified hs hk
    have hlevel := levelOf_of_classifyData hk
    refine ⟨fun hp hlong => ?longFirst, fun hp hl => ?sameLevel, fun hp hshort => ?firstHalf,
      fun hp hl => ?secondHalf⟩
    case longFirst =>
      exact exec_decFeed (hfeed.trans (feedKind_boundary_long hp ((isLong_iff k).mpr hlong)))
    case sameLevel =>
      exact exec_decFeed (hfeed.trans (feedKind_same_level hp (hlevel.trans hl.symm)))
    case firstHalf =>
      have hkind := feedKind_boundary_short hp ((isShort_iff k).mpr hshort)
      rw [hlevel] at hkind
      exact exec_decFeed (hfeed.trans hkind)
    case secondHalf =>
      rw [hfeed, feedKind_resolves hp (hlevel ▸ hl.symm), pendingAfter_pend, pendingAfter_lvl]
  · intro k x
    refine ⟨fun hp hlong => feedKind_boundary_long hp ((isLong_iff k).mpr hlong),
      fun hp hl => feedKind_same_level hp hl,
      fun hp hshort => feedKind_boundary_short hp ((isShort_iff k).mpr hshort),
      fun hp hl => ⟨fun hshort => ?short, fun hlong => ?long⟩⟩
    case short =>
      rw [feedKind_resolves hp hl, pendingAfter, if_neg (by simp [(isShort_iff k).mpr hshort])]
      rfl
    case long =>
      rw [feedKind_resolves hp hl, pendingAfter, if_pos ((isLong_iff k).mpr hlong)]

/-! ## A resolved bit (R181, R182) -/

@[simp] theorem withBit_cbEn (b : Bool) (m : MdState) (x : DecState) :
    (withBit b m x).cbEn = x.cbEn := rfl

/-- R181: below 175 bits a resolved bit is appended, and the packet goes on. -/
theorem feedBit_appends {x : DecState} (hn : x.dcnt.toNat < 175) (b : Bool) (m : MdState) :
    feedBit b { x with mdPend := m.pend, mdLvl := m.lvl } = some (withBit b m x, false) := by
  have hmore : x.dcnt + 1#8 ≠ 176#8 := by bv_omega
  simp [feedBit, bufAppend_of_le, withBit, hmore, hn.le]

/-- R182: at 175 bits a resolved bit is appended and completes the packet. -/
theorem feedBit_last {x : DecState} (hn : x.dcnt.toNat = 175) (b : Bool) (m : MdState) :
    feedBit b { x with mdPend := m.pend, mdLvl := m.lvl } =
      some (packetComplete (withBit b m x)) := by
  have hlast : x.dcnt + 1#8 = 176#8 := by bv_omega
  simp [feedBit, bufAppend_of_le, withBit, hlast, hn]

/-- R182: with a receiver the complete packet is held, and `pkt_ready` pulses. -/
theorem packetComplete_of_receiver {x : DecState} (h : x.cbEn = true) :
    packetComplete x = ({ x with dstate := .cpl }, true) := by
  simp only [packetComplete, h, if_true]

/-- R182: without a receiver the complete packet is dropped. -/
theorem packetComplete_of_no_receiver {x : DecState} (h : x.cbEn = false) :
    packetComplete x = (decoderReset x, false) := by
  simp [packetComplete, h, decoderReset]

/-- R63: ORing a bit in where the store holds a 0 writes that bit and no other. -/
theorem bufBit_bufOrBit_unset {b : Packet} {k : Nat} (hk : k < 176) (hzero : bufBit b k = false)
    (v : Bool) {j : Nat} (hj : j < 176) :
    bufBit (bufOrBit b k v) j = if j = k then v else bufBit b j := by
  rw [bufBit_bufOrBit b v k j hk hj]
  by_cases heq : j = k
  · simp [heq, hzero]
  · simp [heq]

/-- Settles O34: the event resolves the level of the pending half, and the append writes that bit
alone. -/
theorem feedDataAppends : Obligations.FeedDataAppends := by
  intro level d s k hs hn hzero hk hp hl
  simp only [bitAt_eq_bufBit, dataKind_eq_classifyData] at hzero hk ⊢
  have hlevel := levelOf_of_classifyData hk
  have hcount : BitVec.ofNat 8 (s.dec.dcnt.toNat + 1) = s.dec.dcnt + 1#8 := by bv_omega
  refine ⟨bufOrBit s.dec.dbuf s.dec.dcnt.toNat s.dec.mdLvl,
    fun j hj => bufBit_bufOrBit_unset (by omega) (hzero _ le_rfl (by omega)) _ hj, ?_⟩
  rw [hcount, ← pendingAfter_pend, ← pendingAfter_lvl]
  refine exec_decFeed ?_
  rw [feedEdge_fd_classified hs hk, feedKind_resolves hp (hlevel ▸ hl.symm), feedBit_appends hn]
  rfl

/-- R180, R182: the edge at 175 bits that resolves a bit completes the packet. -/
theorem feedEdge_fd_completes {c : Config} {l : Level} {d : Nat} {x : DecState} {k : Kind}
    (hx : x.dstate = .fd) (hn : x.dcnt.toNat = 175) (hk : classifyData c x.dcnt l d = some k)
    (hp : x.mdPend = true) (hl : x.mdLvl ≠ l) :
    feedEdge c l d x = some (packetComplete (withBit x.mdLvl (pendingAfter k) x)) := by
  have hlevel := levelOf_of_classifyData hk
  rw [feedEdge_fd_classified hx hk, feedKind_resolves hp (hlevel ▸ hl.symm), feedBit_last hn]

/-- Settles O35: the last bit completes the packet, which `CB_EN` holds or drops. -/
theorem feedDataCompletes : Obligations.FeedDataCompletes := by
  intro level d s k hs hn hzero hk hp hl
  simp only [bitAt_eq_bufBit] at hzero ⊢
  have hdcnt : s.dec.dcnt = 175#8 := by bv_omega
  rw [← hn, dataKind_eq_classifyData] at hk
  have hfeed := feedEdge_fd_completes hs hn hk hp hl
  constructor
  · intro hcb
    refine ⟨bufOrBit s.dec.dbuf 175 s.dec.mdLvl,
      fun j hj => bufBit_bufOrBit_unset (by omega) hzero _ hj, ?_⟩
    rw [packetComplete_of_receiver (by rwa [withBit_cbEn])] at hfeed
    rw [exec_decFeed hfeed, ← pendingAfter_pend, ← pendingAfter_lvl]
    simp [withBit, hdcnt, hcb, answerFeed, statusByte]
  · intro hcb
    rw [packetComplete_of_no_receiver (by rwa [withBit_cbEn])] at hfeed
    exact exec_decFeed hfeed

end Sys2Proof.Machine
end

section
/-! PROOFS. Runs of edges (30_encoding.md rule R101: FEED_SEQ): one relation for the decoder state a
run leads to and its pulses, what FEED_SEQ does by it, that edges never fail (42_decoder_fsm.md rule
R186) and that a held packet ignores them (R183); then that no run of the block from a state with
the invariant stops. -/

namespace Sys2Proof.Machine

/-! ## Runs of edges -/

/-- R101: the edges `ys`, fed in order from the decoder state `x`, lead to the decoder state in the
third place; the last list holds their pulses, one for each edge. -/
inductive FeedRun (c : Config) : DecState → List Symbol → DecState → List Bool → Prop
  | nil (x : DecState) : FeedRun c x [] x []
  | cons {x y z : DecState} {a : Symbol} {ys : List Symbol} {ready : Bool} {ps : List Bool}
      (hedge : feedEdge c a.level a.duration.toNat x = some (y, ready))
      (hrun : FeedRun c y ys z ps) : FeedRun c x (a :: ys) z (ready :: ps)

/-- One run after another. -/
theorem FeedRun.append {c : Config} {x y z : DecState} {ys zs : List Symbol} {ps qs : List Bool}
    (h₁ : FeedRun c x ys y ps) (h₂ : FeedRun c y zs z qs) :
    FeedRun c x (ys ++ zs) z (ps ++ qs) := by
  induction h₁ with
  | nil => exact h₂
  | cons hedge _ ih => exact .cons hedge (ih h₂)

/-- The block after a run of edges: the decoder state, and the last edge's answer and pulse, if
there was an edge. -/
def afterEdges (s : State) (z : DecState) (ps : List Bool) : State :=
  match ps.getLast? with
  | none => { s with dec := z }
  | some ready => answerFeed ready { s with dec := z }

@[simp] theorem afterEdges_dec (s : State) (z : DecState) (ps : List Bool) :
    (afterEdges s z ps).dec = z := by
  unfold afterEdges
  split <;> rfl

/-- R183: after edges that leave the decoder state and pulse nothing, only the answer is new. -/
theorem afterEdges_replicate {n : Nat} (hn : n ≠ 0) (s : State) :
    afterEdges s s.dec (List.replicate n false) = Spec.replies s [0x00#8] := by
  simp only [afterEdges, List.getLast?_replicate, hn, if_false]
  rfl

/-- The pulse of the last edge stands at the notification line. -/
theorem afterEdges_concat_pktReady (s : State) (z : DecState) (ps : List Bool) (ready : Bool) :
    (afterEdges s z (ps ++ [ready])).port.pktReady = ready := by
  simp [afterEdges]

/-- The state after one more edge at the front is the state after it and then the rest. -/
theorem afterEdges_cons (s : State) (y z : DecState) (ready : Bool) (ps : List Bool) :
    afterEdges (answerFeed ready { s with dec := y }) z ps = afterEdges s z (ready :: ps) := by
  cases ps with
  | nil => rfl
  | cons p ps =>
    simp only [afterEdges, List.getLast?_cons_cons]
    cases h : (p :: ps).getLast? with
    | none => simp at h
    | some r => rfl

/-- R101: DEC_FEED of the first edge of a run. -/
theorem exec_decFeed_of_feedEdge {c : Config} {x y : DecState} {s : State} {a : Symbol}
    {ready : Bool} (hcfg : s.cfg = c) (hdec : s.dec = x)
    (hedge : feedEdge c a.level a.duration.toNat x = some (y, ready)) :
    exec (.decFeed a.level a.duration) s = .next (answerFeed ready { s with dec := y }) := by
  subst hcfg hdec
  exact exec_decFeed hedge

section
variable {c : Config} {x z : DecState} {ys : List Symbol} {ps : List Bool}

/-- R101: FEED_SEQ goes on, to the state of the run. -/
theorem FeedRun.execAll_eq (h : FeedRun c x ys z ps) {s : State} (hcfg : s.cfg = c)
    (hdec : s.dec = x) : execAll (feedSeq ys) s = .next (afterEdges s z ps) := by
  induction h generalizing s with
  | nil x => cases hdec; rfl
  | @cons x y z a ys ready ps hedge _ ih =>
    have hexec := exec_decFeed_of_feedEdge hcfg hdec hedge
    rw [← afterEdges_cons s y, ← ih (s := answerFeed ready { s with dec := y }) hcfg rfl]
    simp only [feedSeq, List.map_cons, execAll, hexec]

/-- R101: FEED_SEQ pulses as often as the run does. -/
theorem FeedRun.pulses_eq (h : FeedRun c x ys z ps) {s : State} (hcfg : s.cfg = c)
    (hdec : s.dec = x) : pulses (feedSeq ys) s = ps.count true := by
  induction h generalizing s with
  | nil => rfl
  | @cons x y z a ys ready ps hedge _ ih =>
    have hexec := exec_decFeed_of_feedEdge hcfg hdec hedge
    have hrest := ih (s := answerFeed ready { s with dec := y }) hcfg rfl
    simp only [feedSeq] at hrest
    simp only [feedSeq, List.map_cons, pulses, hexec, hrest, answerFeed_pktReady]
    cases ready <;> simp [Nat.add_comm]

/-- R186: each edge of FEED_SEQ is answered with `OK`. -/
theorem FeedRun.responses_eq (h : FeedRun c x ys z ps) {s : State} (hcfg : s.cfg = c)
    (hdec : s.dec = x) : responses (feedSeq ys) s = List.replicate ys.length [0x00#8] := by
  induction h generalizing s with
  | nil => rfl
  | @cons x y z a ys ready ps hedge _ ih =>
    have hexec := exec_decFeed_of_feedEdge hcfg hdec hedge
    have hrest := ih (s := answerFeed ready { s with dec := y }) hcfg rfl
    simp only [feedSeq] at hrest
    simp only [feedSeq, List.map_cons, responses, hexec, hrest, answerFeed_resp, List.length_cons,
      List.replicate_succ]

end

/-! ## Runs that pulse nothing -/

/-- A run of edges none of which pulses. -/
abbrev QuietRun (c : Config) (x : DecState) (ys : List Symbol) (z : DecState) : Prop :=
  FeedRun c x ys z (List.replicate ys.length false)

theorem QuietRun.append {c : Config} {x y z : DecState} {ys zs : List Symbol}
    (h₁ : QuietRun c x ys y) (h₂ : QuietRun c y zs z) : QuietRun c x (ys ++ zs) z := by
  have h := FeedRun.append h₁ h₂
  rwa [List.replicate_append_replicate, ← List.length_append] at h

/-- Edges that each keep a property of the decoder state and pulse nothing keep it together. -/
theorem exists_quietRun {c : Config} {P : DecState → Prop} {ys : List Symbol} {x : DecState}
    (hx : P x)
    (hedge : ∀ a ∈ ys, ∀ y, P y →
      ∃ z, feedEdge c a.level a.duration.toNat y = some (z, false) ∧ P z) :
    ∃ z, QuietRun c x ys z ∧ P z := by
  induction ys generalizing x with
  | nil => exact ⟨x, .nil x, hx⟩
  | cons a ys ih =>
    obtain ⟨y, hy, hPy⟩ := hedge a List.mem_cons_self x hx
    obtain ⟨z, hrun, hPz⟩ := ih hPy fun b hb => hedge b (List.mem_cons_of_mem a hb)
    exact ⟨z, .cons hy hrun, hPz⟩

/-- Edges that each leave the decoder state as it is leave it so together. -/
theorem quietRun_of_forall {c : Config} {x : DecState} {ys : List Symbol}
    (h : ∀ a ∈ ys, feedEdge c a.level a.duration.toNat x = some (x, false)) :
    QuietRun c x ys x := by
  obtain ⟨z, hrun, rfl⟩ := exists_quietRun (P := (· = x)) rfl
    (by rintro a ha y rfl; exact ⟨y, h a ha, rfl⟩)
  exact hrun

/-- R183: edges while a packet is held. -/
theorem quietRun_of_cpl (c : Config) {x : DecState} (hx : x.dstate = .cpl) (ys : List Symbol) :
    QuietRun c x ys x :=
  quietRun_of_forall fun _ _ => feedEdge_cpl _ _ _ hx

/-- Settles O36: every edge of the run is ignored. -/
theorem heldPacketIgnoresEdges : Obligations.HeldPacketIgnoresEdges := by
  intro ys s hs hys
  have hrun := quietRun_of_cpl s.cfg hs ys
  refine ⟨?state, ?pulses, hrun.responses_eq rfl rfl⟩
  case state =>
    rw [hrun.execAll_eq rfl rfl, afterEdges_replicate (List.length_eq_zero_iff.not.mpr hys)]
  case pulses => rw [hrun.pulses_eq rfl rfl]; simp [List.count_replicate]

/-! ## No edge fails (R186) -/

/-- R180 to R182: a classified edge is taken wherever `DBUF` has room for a bit. -/
theorem feedKind_isSome {x : DecState} (hn : x.dcnt.toNat ≤ 175) (k : Kind) :
    (feedKind k x).isSome = true := by
  unfold feedKind
  split
  · rfl
  · rfl
  · next m b _ =>
    obtain hlt | heq := hn.lt_or_eq
    · rw [feedBit_appends hlt]
      rfl
    · rw [feedBit_last heq]
      rfl

/-- R186: an edge is taken in every decoder state that meets the invariant. -/
theorem exists_feedEdge_eq_some {x : DecState} (hx : DecInv x) (c : Config) (l : Level) (d : Nat) :
    ∃ y ready, feedEdge c l d x = some (y, ready) := by
  obtain ⟨hfd, -⟩ := hx
  cases hd : x.dstate with
  | rst => exact ⟨_, _, feedEdge_rst c l d hd⟩
  | pas => exact ⟨_, _, feedEdge_pas c l d hd⟩
  | phvl => exact ⟨_, _, feedEdge_phvl c l d hd⟩
  | pal => exact ⟨_, _, feedEdge_pal c l d hd⟩
  | cpl => exact ⟨_, _, feedEdge_cpl c l d hd⟩
  | fd =>
    cases hk : classifyData c x.dcnt l d with
    | none => exact ⟨_, _, feedEdge_fd_unclassified hd hk⟩
    | some k =>
      obtain ⟨⟨y, ready⟩, hy⟩ := Option.isSome_iff_exists.mp (feedKind_isSome (hfd hd) k)
      exact ⟨y, ready, (feedEdge_fd_classified hd hk).trans hy⟩

/-- R186: from a decoder state that meets the invariant any edges can be fed, and keep it. -/
theorem exists_feedRun {x : DecState} (hx : DecInv x) (c : Config) (ys : List Symbol) :
    ∃ z ps, FeedRun c x ys z ps ∧ DecInv z := by
  induction ys generalizing x with
  | nil => exact ⟨x, [], .nil x, hx⟩
  | cons a ys ih =>
    obtain ⟨y, ready, hedge⟩ := exists_feedEdge_eq_some hx c a.level a.duration.toNat
    obtain ⟨z, ps, hrun, hz⟩ := ih ((feedEdge_effect hedge).decInv hx)
    exact ⟨z, ready :: ps, .cons hedge hrun, hz⟩

/-- Settles O37: the edges are a run, and FEED_SEQ does what the run does. -/
theorem edgesNeverFail : Obligations.EdgesNeverFail := by
  intro ys s hs
  obtain ⟨z, ps, hrun, hz⟩ := exists_feedRun hs s.cfg ys
  exact ⟨_, hrun.execAll_eq rfl rfl, by rwa [afterEdges_dec], hrun.responses_eq rfl rfl⟩

/-! ## No step stops -/

/-- R65, R245: a yield reads a meaningful symbol wherever the encoder's invariant holds. -/
theorem exists_execEncYield_next {s : State} (hs : EncInv s.cfg s.enc) :
    ∃ t, execEncYield s = .next t := by
  by_cases hfault : s.enc.eFault = true
  · exact ⟨_, if_pos hfault⟩
  · by_cases hidle : encIdle s.enc = true
    · exact ⟨_, by rw [execEncYield, if_neg hfault, if_pos hidle]⟩
    · obtain hreset | ⟨-, -, hlen, -, -, hcur, -, -⟩ := hs
      · rw [hreset] at hidle
        exact absurd encIdle_reset hidle
      · have hread := symRead_meaningful s s.enc.eCur.toNat hcur (hlen ▸ hcur)
        exact ⟨_, execEncYield_symbol (by simpa using hfault) (by simpa using hidle) hread⟩

/-- No operation stops in a state that meets the invariant. -/
theorem exists_exec_next {s : State} (hs : Inv s) (i : Instr) : ∃ t, exec i s = .next t := by
  obtain ⟨-, hdec, -, henc, -⟩ := hs
  by_cases hi : side i = .pure
  · obtain ⟨st, payload, hexec⟩ := exec_pure hi s.cfg
    exact ⟨_, hexec s rfl⟩
  · cases i with
    | decReset | decSetcb | encStop => exact ⟨_, rfl⟩
    | decFeed l d =>
      obtain ⟨y, ready, hedge⟩ := exists_feedEdge_eq_some hdec s.cfg l d.toNat
      exact ⟨_, exec_decFeed hedge⟩
    | pktParse src =>
      cases src with
      | buf key => exact ⟨_, rfl⟩
      | dec => exact ⟨_, (apply_ite Host.Outcome.next _ _ _).symm⟩
    | pktSerialize => exact ⟨_, (apply_ite Host.Outcome.next _ _ _).symm⟩
    | encLoad kv rv n r k =>
      obtain ⟨e, m, resp, hexec⟩ := execEncLoad_local kv rv n r k s
      exact ⟨_, hexec s rfl rfl rfl⟩
    | encYield => exact exists_execEncYield_next henc
    | _ => exact absurd rfl hi

/-- No step stops in a state that meets the invariant, whatever frame waits. -/
theorem exists_step_next {s : State} (hs : Inv s) : ∃ t, step s = .next t := by
  cases hq : s.port.inq with
  | nil => exact ⟨_, step_of_inq_nil hq⟩
  | cons f rest =>
    cases hd : decode f with
    | ok i =>
      have htaken : Inv { s with port := { s.port with inq := rest } } := hs
      rw [step_of_decode_ok hq hd]
      exact exists_exec_next htaken i
    | error e => exact ⟨_, step_of_decode_error hq hd⟩

/-- Settles O9, by induction on the length of the run: a step goes on, and keeps the invariant
(O8). -/
theorem invariantRunsSafe : Obligations.InvariantRunsSafe := by
  intro s hs n
  induction n generalizing s with
  | zero => exact ⟨s, rfl⟩
  | succ n ih =>
    obtain ⟨t, hstep⟩ := exists_step_next hs
    obtain ⟨u, hrun⟩ := ih t (invariantKept s t hs hstep)
    refine ⟨u, ?_⟩
    simp only [Host.Core.run, show core.step s = .next t from hstep, hrun]

end Sys2Proof.Machine
end

section
/-! PROOFS. A transmission and the decoder: the sequence of a packet as what is on the air, the
decoder over its preamble, sync header and data (42_decoder_fsm.md rule R188), a packet whose first
stored bit is 1, and recovery from garbage (R187; 70_reset_and_hazards.md rule R319). -/

namespace Sys2Proof.Machine

/-! ## The sequence of a packet (R234 to R239) -/

/-- R237 to R239: the symbols of a kind stream: each kind lasts its nominal duration, the closing
one `N_TERM`. -/
def onAir (c : Config) : List Kind → List Symbol
  | [] => []
  | [k] => [mkSymbol (levelOf k) (nTerm c)]
  | k :: k' :: ks => kindToSymbol c k :: onAir c (k' :: ks)

theorem onAir_cons (c : Config) (k : Kind) {ks : List Kind} (h : ks ≠ []) :
    onAir c (k :: ks) = kindToSymbol c k :: onAir c ks := by
  cases ks with
  | nil => exact absurd rfl h
  | cons => rfl

theorem onAir_concat (c : Config) (ks : List Kind) (k : Kind) :
    onAir c (ks ++ [k]) = ks.map (kindToSymbol c) ++ [mkSymbol (levelOf k) (nTerm c)] := by
  induction ks with
  | nil => rfl
  | cons a ks ih => simp [onAir_cons, ih]

@[simp] theorem kindToSymbol_shortKind (c : Config) (l : Level) :
    kindToSymbol c (shortKind l) = mkSymbol l (nShort c) := by
  simp [kindToSymbol]

@[simp] theorem kindToSymbol_longKind (c : Config) (l : Level) :
    kindToSymbol c (longKind l) = mkSymbol l (nLong c) := by
  simp [kindToSymbol]

/-- R179, R237, R238: the data symbols last `TE_SHORT`, `TE_LONG` or `N_TERM`. -/
theorem exists_eq_mkSymbol_of_mem_onAir {c : Config} {ks : List Kind} {a : Symbol}
    (h : a ∈ onAir c ks) :
    ∃ l n, a = mkSymbol l n ∧ (n = nShort c ∨ n = nLong c ∨ n = nTerm c) := by
  obtain rfl | ⟨ks, k, rfl⟩ := ks.eq_nil_or_concat'
  · cases h
  · rw [onAir_concat, List.mem_append, List.mem_map, List.mem_singleton] at h
    obtain ⟨k', -, rfl⟩ | rfl := h
    · refine ⟨_, _, rfl, ?_⟩
      split
      · exact .inr (.inl rfl)
      · exact .inl rfl
    · exact ⟨_, _, rfl, .inr (.inr rfl)⟩

theorem streamRest_ne_nil (p : Bool) (ws : List Bool) : Spec.streamRest p ws ≠ [] := by
  have h := streamRest_length p ws
  intro hnil
  rw [hnil, List.length_nil] at h
  omega

/-- R234 to R239: the whole sequence of the packet `b`. -/
def transmission (c : Config) (b : Packet) : List Symbol :=
  preamble c ++ syncHeader c ++ onAir c (Spec.stream (wireBits b))

theorem transmission_eq_cons (c : Config) (b : Packet) :
    transmission c b = mkSymbol false (nFirstLow c) :: (transmission c b).tail := rfl

/-- R239: ENC_LOAD generates the transmission. -/
theorem genSymbols_eq (c : Config) (b : Packet) :
    ∃ q, genSymbols c b = some ({ step := .start, prev := q }, transmission c b) := by
  have hne : wireBits b ≠ [] := by simp [← List.length_pos_iff]
  obtain ⟨q, ks, hks, hstream⟩ := mencBits_start_stream hne
  refine ⟨q, ?_⟩
  simp only [genSymbols, hks, mencFlush_of_ne_corrupt (step := .halfOut) (by decide), transmission,
    ← hstream, onAir_concat, List.append_assoc]

/-- R236: the first wire bit, and the others. -/
theorem wireBits_eq_cons (b : Packet) :
    wireBits b = (!bufBit b 0) :: (List.range 175).map fun k => !bufBit b (k + 1) := by
  rw [wireBits, List.range_succ_eq_map, List.map_cons, List.map_map]
  rfl

/-- R234: the first low, 20 times a high and a low short, and the mark. -/
theorem preamble_eq (c : Config) :
    preamble c = mkSymbol false (nFirstLow c) ::
      ((List.replicate 20 [mkSymbol true (nShort c), mkSymbol false (nShort c)]).flatten ++
        [mkSymbol true (nMark c)]) := rfl

/-- R234: the symbols between the first low and the mark are shorts. -/
theorem exists_eq_short_of_mem_alternation {c : Config} {n : Nat} {a : Symbol}
    (h : a ∈ (List.replicate n [mkSymbol true (nShort c), mkSymbol false (nShort c)]).flatten) :
    ∃ l, a = mkSymbol l (nShort c) := by
  obtain ⟨pair, hpair, ha⟩ := List.mem_flatten.mp h
  obtain rfl := List.eq_of_mem_replicate hpair
  simp only [List.mem_cons, List.not_mem_nil, or_false] at ha
  obtain rfl | rfl := ha
  · exact ⟨_, rfl⟩
  · exact ⟨_, rfl⟩

/-! ## The nominals of a separated configuration (R9, R122) -/

section
variable {c : Config}

/-- R9, R122: every nominal as a multiple of `TE_SHORT`. -/
theorem nominals_of_wellFormed (hc : c.WellFormed) :
    nLong c = 2 * nShort c ∧ nFirstLow c = nShort c + nShort c / 2 ∧ nMark c = 8 * nShort c ∧
      nTerm c = 3 * nShort c + nShort c / 2 := by
  have hlong := nLong_of_wellFormed hc
  have hterm := nTerm_eq c
  have hmark := nMark_eq c
  exact ⟨hlong, rfl, by omega, by omega⟩

/-- R120: in a well-formed configuration a nominal matches itself. -/
theorem durMatches_self (hc : c.WellFormed) (n : Nat) : durMatches c n n = true := by
  obtain ⟨-, hdelta, -⟩ := hc
  exact (durMatches_iff c n n).mpr (by omega)

theorem durMatches_comm (c : Config) (a b : Nat) : durMatches c a b = durMatches c b a := by
  rw [Bool.eq_iff_iff, durMatches_iff, durMatches_iff, and_comm]

/-- R127: a duration `TE_SHORT` or more away from a nominal does not match it. -/
theorem durMatches_far (hc : c.Separated) {d n : Nat}
    (h : d + nShort c ≤ n ∨ n + nShort c ≤ d) : durMatches c d n = false := by
  obtain ⟨⟨hshort, -⟩, hsep⟩ := hc
  unfold nShort at h
  exact (durMatches_false_iff c d n).mpr (by omega)

/-- R9, R96: a duration up to the mark's fits a symbol. -/
theorem mkSymbol_duration_toNat (hc : c.WellFormed) (l : Level) {n : Nat} (hn : n ≤ nMark c) :
    (mkSymbol l n).duration.toNat = n := by
  obtain ⟨-, -, -, hfits⟩ := hc
  unfold nMark at hn
  show n % 2 ^ 32 = n
  omega

/-- A run over a symbol of a nominal duration, and then the others. -/
theorem FeedRun.cons_mkSymbol (hc : c.WellFormed) {l : Level} {n : Nat} (hn : n ≤ nMark c)
    {x y z : DecState} {ys : List Symbol} {ready : Bool} {ps : List Bool}
    (hedge : feedEdge c l n x = some (y, ready)) (hrun : FeedRun c y ys z ps) :
    FeedRun c x (mkSymbol l n :: ys) z (ready :: ps) := by
  refine .cons ?_ hrun
  rwa [mkSymbol_duration_toNat hc l hn]

end

/-! ## The preamble and the sync header (R175 to R178) -/

section
variable {c : Config} (hc : c.Separated)
include hc

/-- R176: a short keeps the decoder in `PAS`. -/
theorem feedEdge_pas_short {x : DecState} (hx : x.dstate = .pas) (l : Level) :
    feedEdge c l (nShort c) x = some (x, false) := by
  have hmark : durMatches c (nShort c) (nMark c) = false :=
    durMatches_far hc (by have := nominals_of_wellFormed hc.1; omega)
  simp [feedEdge_pas _ _ _ hx, feedPas, hmark, durMatches_self hc.1]

/-- R175, R176: the preamble takes the decoder from `RST` to the mark. -/
theorem quietRun_preamble {x : DecState} (hx : x.dstate = .rst) :
    QuietRun c x (preamble c) { x with dstate := .phvl } := by
  obtain ⟨-, hfirst, hmark, -⟩ := nominals_of_wellFormed hc.1
  have first : feedEdge c false (nFirstLow c) x = some ({ x with dstate := .pas }, false) := by
    simp [feedEdge_rst _ _ _ hx, feedRst, durMatches_self hc.1]
  have mark : feedEdge c true (nMark c) { x with dstate := .pas } =
      some ({ x with dstate := .phvl }, false) := by
    simp [feedEdge_pas, feedPas, durMatches_self hc.1]
  rw [preamble_eq]
  refine FeedRun.cons_mkSymbol hc.1 (by omega) first (QuietRun.append (quietRun_of_forall ?_)
    (FeedRun.cons_mkSymbol hc.1 le_rfl mark (.nil _)))
  intro a ha
  obtain ⟨l, rfl⟩ := exists_eq_short_of_mem_alternation ha
  rw [mkSymbol_duration_toNat hc.1 l (by omega)]
  exact feedEdge_pas_short hc rfl l

/-- R178: a long keeps the decoder in `PAL`. -/
theorem feedEdge_pal_long {x : DecState} (hx : x.dstate = .pal) (l : Level) :
    feedEdge c l (nLong c) x = some (x, false) := by
  have hshort : durMatches c (nLong c) (nShort c) = false :=
    durMatches_far hc (by have := nominals_of_wellFormed hc.1; omega)
  simp [feedEdge_pal _ _ _ hx, feedPal, hshort, durMatches_self hc.1]

/-- R177, R178: the sync header takes the decoder from the mark to `PAL`. -/
theorem quietRun_syncHeader {x : DecState} (hx : x.dstate = .phvl) :
    QuietRun c x (syncHeader c) { x with dstate := .pal } := by
  have hlong : nLong c ≤ nMark c := by have := nominals_of_wellFormed hc.1; omega
  have low : feedEdge c false (nLong c) x = some ({ x with dstate := .pal }, false) := by
    simp [feedEdge_phvl _ _ _ hx, feedPhvl, durMatches_self hc.1]
  have stays (l : Level) := feedEdge_pal_long hc (x := { x with dstate := .pal }) rfl l
  exact .cons_mkSymbol hc.1 hlong low (.cons_mkSymbol hc.1 hlong (stays _)
    (.cons_mkSymbol hc.1 hlong (stays _) (.cons_mkSymbol hc.1 hlong (stays _) (.nil _))))

/-- R175 to R178: preamble and sync header take the decoder from `RST` to `PAL`. -/
theorem quietRun_header {x : DecState} (hx : x.dstate = .rst) :
    QuietRun c x (preamble c ++ syncHeader c) { x with dstate := .pal } :=
  (quietRun_preamble hc hx).append (quietRun_syncHeader hc rfl)

/-- R178: a low short in `PAL` is the first half of the first cell. -/
theorem feedEdge_pal_low_short {x : DecState} (hx : x.dstate = .pal) :
    feedEdge c false (nShort c) x =
      some ({ x with dstate := .fd, mdPend := true, mdLvl := false }, false) := by
  have hprimed : primed = { pend := true, lvl := false } := rfl
  simp [feedEdge_pal _ _ _ hx, feedPal, durMatches_self hc.1, hprimed]

/-- R178: a high short in `PAL` resets the decoder. -/
theorem feedEdge_pal_high_short {x : DecState} (hx : x.dstate = .pal) :
    feedEdge c true (nShort c) x = some (decoderReset x, false) := by
  have hlong : durMatches c (nShort c) (nLong c) = false :=
    durMatches_far hc (by have := nominals_of_wellFormed hc.1; omega)
  simp [feedEdge_pal _ _ _ hx, feedPal, hlong]

/-! ## The data (R179 to R182) -/

theorem classifyData_short (dcnt : BitVec 8) (l : Level) :
    classifyData c dcnt l (nShort c) = some (shortKind l) := by
  simp [classifyData, durMatches_self hc.1]

theorem classifyData_long (dcnt : BitVec 8) (l : Level) :
    classifyData c dcnt l (nLong c) = some (longKind l) := by
  obtain ⟨hlong, -, -, hterm⟩ := nominals_of_wellFormed hc.1
  have hs : durMatches c (nLong c) (nShort c) = false := durMatches_far hc (by omega)
  have ht : durMatches c (nLong c) (nTerm c) = false := durMatches_far hc (by omega)
  simp [classifyData, hs, ht, durMatches_self hc.1]

/-- R179: the closing symbol is a short, where 175 bits have been accumulated. -/
theorem classifyData_term (l : Level) :
    classifyData c 175#8 l (nTerm c) = some (shortKind l) := by
  simp [classifyData, durMatches_self hc.1]

end

/-- R181: the bits `vs` appended from bit index `k` on. -/
def storeBits : Nat → List Bool → Packet → Packet
  | _, [], b => b
  | k, v :: vs, b => storeBits (k + 1) vs (bufOrBit b k v)

/-- A run of edges whose last one, and no other, pulses. -/
def CompletingRun (c : Config) (x : DecState) (ys : List Symbol) (z : DecState) : Prop :=
  ∃ n, FeedRun c x ys z (List.replicate n false ++ [true])

theorem QuietRun.completing {c : Config} {x y z : DecState} {ys zs : List Symbol}
    (h₁ : QuietRun c x ys y) (h₂ : CompletingRun c y zs z) : CompletingRun c x (ys ++ zs) z := by
  obtain ⟨n, hrun⟩ := h₂
  refine ⟨ys.length + n, ?_⟩
  rw [List.replicate_add, List.append_assoc]
  exact FeedRun.append h₁ hrun

section
variable {c : Config} (hc : c.Separated)
include hc

/-- R180, R181: a short of the other level completes the pending cell. -/
theorem feedEdge_fd_short_completes_cell {x : DecState} {p : Bool} (hx : x.dstate = .fd)
    (hp : x.mdPend = true) (hl : x.mdLvl = !p) (hn : x.dcnt.toNat < 175) :
    feedEdge c p (nShort c) x = some (withBit (!p) mdecStart x, false) := by
  rw [feedEdge_fd_classified hx (classifyData_short hc _ p), feedKind_resolves hp (by simp [hl]),
    feedBit_appends hn, pendingAfter_shortKind, hl]

/-- R180, R181: a long of the other level completes the pending cell and begins the next. -/
theorem feedEdge_fd_long_completes_cell {x : DecState} {p : Bool} (hx : x.dstate = .fd)
    (hp : x.mdPend = true) (hl : x.mdLvl = !p) (hn : x.dcnt.toNat < 175) :
    feedEdge c p (nLong c) x = some (withBit (!p) { pend := true, lvl := p } x, false) := by
  rw [feedEdge_fd_classified hx (classifyData_long hc _ p), feedKind_resolves hp (by simp [hl]),
    feedBit_appends hn, pendingAfter_longKind, hl]

/-- R180: a short with nothing pending begins a cell. -/
theorem feedEdge_fd_short_begins_cell {x : DecState} (l : Level) (hx : x.dstate = .fd)
    (hp : x.mdPend = false) :
    feedEdge c l (nShort c) x = some ({ x with mdPend := true, mdLvl := l }, false) := by
  rw [feedEdge_fd_classified hx (classifyData_short hc _ l),
    feedKind_boundary_short hp (isLong_shortKind l), levelOf_shortKind]

/-- R182: the closing symbol at 175 bits completes the packet. -/
theorem feedEdge_fd_term {x : DecState} {p : Bool} (hx : x.dstate = .fd) (hp : x.mdPend = true)
    (hl : x.mdLvl = !p) (hn : x.dcnt.toNat = 175) (hcb : x.cbEn = true) :
    feedEdge c p (nTerm c) x =
      some ({ withBit (!p) mdecStart x with dstate := .cpl }, true) := by
  have hdcnt : x.dcnt = 175#8 := by bv_omega
  have hk : classifyData c x.dcnt p (nTerm c) = some (shortKind p) := by
    rw [hdcnt]
    exact classifyData_term hc p
  rw [feedEdge_fd_completes hx hn hk hp (by simp [hl]), pendingAfter_shortKind, hl,
    packetComplete_of_receiver (by rwa [withBit_cbEn])]

/-- R179 to R182: with the first half of the cell `p` pending and the bits after it to come, the
rest of the stream fills `DBUF` with the NOT of each wire bit and completes the packet. -/
theorem exists_dataRun (p : Bool) (ws : List Bool) {x : DecState} (hx : x.dstate = .fd)
    (hp : x.mdPend = true) (hl : x.mdLvl = !p) (hn : x.dcnt.toNat + ws.length = 175)
    (hcb : x.cbEn = true) :
    ∃ z, CompletingRun c x (onAir c (Spec.streamRest p ws)) z ∧ z.dstate = .cpl ∧
      z.dcnt = 176#8 ∧
      z.dbuf = storeBits x.dcnt.toNat ((p :: ws).map fun w => !w) x.dbuf := by
  obtain ⟨hlong, -, hmark, hterm⟩ := nominals_of_wellFormed hc.1
  induction ws generalizing p x with
  | nil =>
    have hlast : x.dcnt.toNat = 175 := hn
    have hedge := feedEdge_fd_term hc hx hp hl hlast hcb
    rw [streamRest_nil, onAir, levelOf_shortKind]
    refine ⟨_, ⟨0, .cons_mkSymbol hc.1 (by omega) hedge (.nil _)⟩, rfl, ?_, rfl⟩
    show x.dcnt + 1#8 = 176#8
    bv_omega
  | cons w ws ih =>
    rw [List.length_cons] at hn
    have hcount (m : MdState) : (withBit (!p) m x).dcnt.toNat = x.dcnt.toNat + 1 :=
      withBit_dcnt_toNat (by omega)
    obtain rfl | rfl := Bool.eq_or_eq_not w p
    · have hsecond := feedEdge_fd_short_completes_cell hc hx hp hl (by omega)
      have hfirst := feedEdge_fd_short_begins_cell hc (x := withBit (!w) mdecStart x) (!w) hx rfl
      obtain ⟨z, ⟨n, hrun⟩, hz, hzn, hzb⟩ := ih w
        (x := { withBit (!w) mdecStart x with mdPend := true, mdLvl := !w }) hx rfl rfl
        (by simp only [hcount]; omega) hcb
      refine ⟨z, ⟨n + 2, ?_⟩, hz, hzn, ?_⟩
      · rw [streamRest_cons_self, onAir_cons _ _ (List.cons_ne_nil _ _),
          onAir_cons _ _ (streamRest_ne_nil _ _), kindToSymbol_shortKind, kindToSymbol_shortKind]
        exact .cons_mkSymbol hc.1 (by omega) hsecond (.cons_mkSymbol hc.1 (by omega) hfirst hrun)
      · rw [hzb]
        simp only [hcount]
        rfl
    · have hboth := feedEdge_fd_long_completes_cell hc hx hp hl (by omega)
      obtain ⟨z, ⟨n, hrun⟩, hz, hzn, hzb⟩ := ih (!p)
        (x := withBit (!p) { pend := true, lvl := p } x) hx rfl (Bool.not_not p).symm
        (by simp only [hcount]; omega) hcb
      refine ⟨z, ⟨n + 1, ?_⟩, hz, hzn, ?_⟩
      · rw [streamRest_cons_not, onAir_cons _ _ (streamRest_ne_nil _ _), kindToSymbol_longKind]
        exact .cons_mkSymbol hc.1 (by omega) hboth hrun
      · rw [hzb, hcount]
        rfl

end

/-! ## The bits of the packet that was fed (R62, R63) -/

/-- R63: appending bits from index `k` on writes each where it belongs. -/
theorem bufBit_storeBits {k : Nat} {vs : List Bool} (hk : k + vs.length ≤ 176) (b : Packet)
    {j : Nat} (hj : j < 176) :
    bufBit (storeBits k vs b) j =
      (bufBit b j || (decide (k ≤ j) && (vs[j - k]?).getD false)) := by
  induction vs generalizing k b with
  | nil => simp [storeBits]
  | cons v vs ih =>
    rw [List.length_cons] at hk
    rw [storeBits, ih (by omega), bufBit_bufOrBit _ _ _ _ (by omega) hj]
    obtain hlt | rfl | hgt := lt_trichotomy j k
    · simp [show ¬ k ≤ j by omega, show ¬ k + 1 ≤ j by omega, show j ≠ k by omega]
    · simp
    · rw [show j - k = j - (k + 1) + 1 by omega]
      simp [show k ≤ j by omega, show k + 1 ≤ j by omega, show j ≠ k by omega]

/-- R62: two stores with the same 176 bits are the same. -/
theorem packet_ext_bufBit {a b : Packet} (h : ∀ k, k < 176 → bufBit a k = bufBit b k) : a = b := by
  apply Vector.ext
  intro i hi
  apply BitVec.eq_of_getLsbD_eq
  intro q hq
  have hbit := h (8 * i + (7 - q)) (by omega)
  have hbyte : (8 * i + (7 - q)) / 8 = i := by omega
  have hpos : 7 - (8 * i + (7 - q)) % 8 = q := by omega
  simpa only [bufBit, hbyte, hpos, byte_getD _ i hi] using hbit

/-- R25: an empty decoder's buffer is all zero. -/
theorem dbuf_eq_zero_of_rst {x : DecState} (hx : DecInv x) (hrst : x.dstate = .rst) :
    x.dcnt = 0#8 ∧ x.dbuf = Packet.zero := by
  obtain ⟨-, -, hempty, hunfilled, -⟩ := hx
  obtain ⟨hcnt, -⟩ := hempty (by simp [hrst]) (by simp [hrst])
  refine ⟨hcnt, packet_ext_bufBit fun k hk => ?_⟩
  rw [hunfilled k hk (by simp [hcnt]), bufBit_zero]

/-- R62, R63, R236: appending all bits of a packet to an empty buffer gives the packet. -/
theorem storeBits_not_wireBits (b : Packet) :
    storeBits 0 ((wireBits b).map fun w => !w) Packet.zero = b := by
  apply packet_ext_bufBit
  intro k hk
  rw [bufBit_storeBits (by simp) _ hk]
  simp [wireBits, hk]

/-! ## A whole transmission -/

/-- R188: a transmission of a packet whose first stored bit is 0 ends with it held. -/
theorem exists_completingRun_transmission {c : Config} (hc : c.Separated) {x : DecState}
    (hx : DecInv x) (hrst : x.dstate = .rst) (hcb : x.cbEn = true) {key : Packet}
    (hkey : bufBit key 0 = false) :
    ∃ z, CompletingRun c x (transmission c key) z ∧ z.dstate = .cpl ∧ z.dcnt = 176#8 ∧
      z.dbuf = key := by
  obtain ⟨hcnt, hbuf⟩ := dbuf_eq_zero_of_rst hx hrst
  have hshort : nShort c ≤ nMark c := by have := nominals_of_wellFormed hc.1; omega
  have hwire := wireBits_eq_cons key
  rw [hkey, Bool.not_false] at hwire
  obtain ⟨z, ⟨n, hdata⟩, hz, hzn, hzb⟩ := exists_dataRun hc true
    ((List.range 175).map fun k => !bufBit key (k + 1))
    (x := { x with dstate := .fd, mdPend := true, mdLvl := false }) rfl rfl rfl
    (by simp [hcnt]) hcb
  refine ⟨z, ?run, hz, hzn, ?bytes⟩
  case run =>
    refine (quietRun_header hc hrst).completing ⟨n + 1, ?_⟩
    rw [hwire, stream_cons, onAir_cons _ _ (streamRest_ne_nil _ _), kindToSymbol_shortKind]
    exact .cons_mkSymbol hc.1 hshort (feedEdge_pal_low_short hc rfl) hdata
  case bytes =>
    rw [hzb, ← hwire]
    simp only [hcnt, hbuf]
    exact storeBits_not_wireBits key

/-! ## A packet that is not receivable -/

/-- R175, R176: the decoder waits for the mark of a preamble. -/
abbrev SeeksMark (x : DecState) : Prop := x.dstate = .rst ∨ x.dstate = .pas

/-- R175, R176: an edge of a duration that is not the mark leaves a decoder that waits for the mark
waiting. -/
theorem exists_feedEdge_seeksMark {c : Config} {n : Nat}
    (hmark : durMatches c n (nMark c) = false) (l : Level) {x : DecState} (hx : SeeksMark x) :
    ∃ y, feedEdge c l n x = some (y, false) ∧ SeeksMark y := by
  obtain hrst | hpas := hx
  · refine ⟨_, feedEdge_rst c l n hrst, ?_⟩
    unfold feedRst
    split
    · exact .inr rfl
    · exact .inl hrst
  · refine ⟨_, feedEdge_pas c l n hpas, ?_⟩
    rw [feedPas, if_neg (by simp [hmark])]
    split
    · exact .inr hpas
    · exact .inl rfl

/-- R175, R176: data symbols leave a decoder that waits for the mark waiting. -/
theorem exists_quietRun_onAir_seeksMark {c : Config} (hc : c.Separated) {x : DecState}
    (hx : SeeksMark x) (ks : List Kind) : ∃ z, QuietRun c x (onAir c ks) z ∧ SeeksMark z := by
  obtain ⟨hlong, -, hmark, hterm⟩ := nominals_of_wellFormed hc.1
  refine exists_quietRun hx fun a ha y hy => ?_
  obtain ⟨l, n, rfl, hn⟩ := exists_eq_mkSymbol_of_mem_onAir ha
  rw [mkSymbol_duration_toNat hc.1 l (by omega)]
  exact exists_feedEdge_seeksMark (durMatches_far hc (by omega)) l hy

/-- R188: a transmission of a packet whose first stored bit is 1 never completes: its first data
symbol, a high short, resets the decoder, and the others do not bring a mark. -/
theorem exists_quietRun_transmission {c : Config} (hc : c.Separated) {x : DecState}
    (hrst : x.dstate = .rst) {key : Packet} (hkey : bufBit key 0 = true) :
    ∃ z, QuietRun c x (transmission c key) z ∧ SeeksMark z := by
  have hshort : nShort c ≤ nMark c := by have := nominals_of_wellFormed hc.1; omega
  obtain ⟨z, hdata, hz⟩ := exists_quietRun_onAir_seeksMark hc
    (x := decoderReset { x with dstate := .pal }) (.inl rfl)
    (Spec.streamRest false ((List.range 175).map fun k => !bufBit key (k + 1)))
  refine ⟨z, (quietRun_header hc hrst).append ?_, hz⟩
  rw [wireBits_eq_cons, hkey, Bool.not_true, stream_cons, onAir_cons _ _ (streamRest_ne_nil _ _),
    kindToSymbol_shortKind]
  exact FeedRun.cons_mkSymbol hc.1 hshort (feedEdge_pal_high_short hc rfl) hdata

/-- Settles O58: the generated sequence is the transmission; it completes or never does, by the
first stored bit. -/
theorem roundTrip : Obligations.RoundTrip := by
  intro key s hc hinv hrst hcb
  obtain ⟨q, hgen⟩ := genSymbols_eq s.cfg key
  simp only [bitAt_eq_bufBit]
  cases hkey : bufBit key 0 with
  | false =>
    obtain ⟨z, ⟨n, hrun⟩, hz, hzn, hzb⟩ :=
      exists_completingRun_transmission hc hinv hrst hcb hkey
    refine ⟨_, _, _, hgen, hrun.execAll_eq rfl rfl, fun _ => ?_, nofun⟩
    rw [afterEdges_dec, hrun.pulses_eq rfl rfl, afterEdges_concat_pktReady]
    exact ⟨hz, hzb, hzn, by simp [List.count_replicate], rfl⟩
  | true =>
    obtain ⟨z, hrun, hz⟩ := exists_quietRun_transmission hc hrst hkey
    refine ⟨_, _, _, hgen, hrun.execAll_eq rfl rfl, nofun, fun _ => ?_⟩
    rw [afterEdges_dec, hrun.pulses_eq rfl rfl]
    refine ⟨?_, by simp [List.count_replicate]⟩
    obtain hz | hz := hz <;> simp [hz]

/-! ## Recovery from garbage (R187, R319) -/

section
variable {c : Config} (hc : c.Separated)
  (hshort : durMatches c (nFirstLow c) (nShort c) = false)
  (hlong : durMatches c (nFirstLow c) (nLong c) = false)
include hc hshort hlong

/-- R187: the first low of a preamble resets a decoder that is past `RST` and holds no packet. -/
theorem feedEdge_firstLow_resets {x : DecState} (hrst : x.dstate ≠ .rst) (hcpl : x.dstate ≠ .cpl) :
    feedEdge c false (nFirstLow c) x = some (decoderReset x, false) := by
  have hterm : durMatches c (nFirstLow c) (nTerm c) = false :=
    durMatches_far hc (by have := nominals_of_wellFormed hc.1; omega)
  cases hx : x.dstate with
  | rst => exact absurd hx hrst
  | cpl => exact absurd hx hcpl
  | pas => simp [feedEdge_pas _ _ _ hx, feedPas, hshort]
  | phvl => simp [feedEdge_phvl _ _ _ hx, feedPhvl, hlong]
  | pal => simp [feedEdge_pal _ _ _ hx, feedPal, hshort, hlong]
  | fd =>
    exact feedEdge_fd_unclassified hx (by simp [classifyData, hshort, hlong, hterm])

/-- R175: no duration of a transmission but the first is taken for a first low. -/
theorem durMatches_nFirstLow_of_nominal {n : Nat}
    (hn : n = nShort c ∨ n = nLong c ∨ n = nTerm c ∨ n = nMark c) :
    durMatches c n (nFirstLow c) = false := by
  obtain ⟨-, hfirst, hmark, hterm⟩ := nominals_of_wellFormed hc.1
  obtain rfl | rfl | hn := hn
  · rwa [durMatches_comm]
  · rwa [durMatches_comm]
  · exact durMatches_far hc (by omega)

/-- R175: a decoder in `RST` ignores what follows the first low of a transmission. -/
theorem quietRun_transmission_tail {x : DecState} (hx : x.dstate = .rst) (key : Packet) :
    QuietRun c x (transmission c key).tail x := by
  obtain ⟨hl, -, hmark, hterm⟩ := nominals_of_wellFormed hc.1
  refine quietRun_of_forall fun a ha => ?_
  have hnominal : ∃ l n, a = mkSymbol l n ∧
      (n = nShort c ∨ n = nLong c ∨ n = nTerm c ∨ n = nMark c) := by
    simp only [transmission, preamble_eq, List.cons_append, List.tail_cons, List.mem_append,
      List.mem_singleton] at ha
    obtain ((ha | rfl) | ha) | ha := ha
    · obtain ⟨l, rfl⟩ := exists_eq_short_of_mem_alternation ha
      exact ⟨l, _, rfl, .inl rfl⟩
    · exact ⟨_, _, rfl, .inr (.inr (.inr rfl))⟩
    · simp only [syncHeader, List.mem_cons, List.not_mem_nil, or_false] at ha
      obtain rfl | rfl | rfl | rfl := ha <;> exact ⟨_, _, rfl, .inr (.inl rfl)⟩
    · obtain ⟨l, n, rfl, hn⟩ := exists_eq_mkSymbol_of_mem_onAir ha
      exact ⟨l, n, rfl, by tauto⟩
  obtain ⟨l, n, rfl, hn⟩ := hnominal
  have hignored := durMatches_nFirstLow_of_nominal hc hshort hlong hn
  rw [mkSymbol_duration_toNat hc.1 l (by omega)]
  simp [feedEdge_rst _ _ _ hx, feedRst, hignored]

/-- R187: a transmission resets a decoder that is past `RST` and holds no packet, and nothing
more. -/
theorem quietRun_transmission_resets {x : DecState} (hrst : x.dstate ≠ .rst)
    (hcpl : x.dstate ≠ .cpl) (key : Packet) :
    QuietRun c x (transmission c key) (decoderReset x) := by
  obtain ⟨-, hfirst, hmark, -⟩ := nominals_of_wellFormed hc.1
  rw [transmission_eq_cons]
  exact FeedRun.cons_mkSymbol hc.1 (by omega)
    (feedEdge_firstLow_resets hc hshort hlong hrst hcpl)
    (quietRun_transmission_tail hc hshort hlong (decoderReset_dstate x) key)

end

/-- A run that pulses once, wherever the pulse is. -/
theorem count_replicate_append_true (m n : Nat) :
    (List.replicate m false ++ [true] ++ List.replicate n false).count true = 1 := by
  simp [List.count_replicate]

/-- Settles O59: a decoder in `RST` takes the packet from the first transmission and ignores the
second; any other is reset by the first and takes it from the second. -/
theorem secondRepetitionDecoded : Obligations.SecondRepetitionDecoded := by
  intro key s hc hinv hcpl hcb hkey hshort hlong
  rw [bitAt_eq_bufBit] at hkey
  obtain ⟨q, hgen⟩ := genSymbols_eq s.cfg key
  by_cases hrst : s.dec.dstate = .rst
  · obtain ⟨z, ⟨n, hfirst⟩, hz, -, hzb⟩ :=
      exists_completingRun_transmission hc hinv hrst hcb hkey
    have hrun := hfirst.append (quietRun_of_cpl s.cfg hz (transmission s.cfg key))
    refine ⟨_, _, _, hgen, hrun.execAll_eq rfl rfl, ?_⟩
    rw [afterEdges_dec, hrun.pulses_eq rfl rfl, count_replicate_append_true]
    exact ⟨hz, hzb, rfl⟩
  · have hfirst := quietRun_transmission_resets hc hshort hlong hrst hcpl key
    obtain ⟨z, hsecond, hz, -, hzb⟩ := exists_completingRun_transmission hc
      (decInv_decoderReset s.dec) (decoderReset_dstate s.dec) hcb hkey
    obtain ⟨n, hrun⟩ := hfirst.completing hsecond
    refine ⟨_, _, _, hgen, hrun.execAll_eq rfl rfl, ?_⟩
    rw [afterEdges_dec, hrun.pulses_eq rfl rfl]
    exact ⟨hz, hzb, by simp [List.count_replicate]⟩

end Sys2Proof.Machine
end

section
/-! PROOFS. The answer of PKT_PARSE on numbers: the two CRCs (43_parser_crc.md rules R201 to R206)
and the layout of the response frame (30_encoding.md rule R94; R210). -/

namespace Sys2Proof.Machine

/-! ## The two shift registers on numbers (R201, R202) -/

/-- R201: one shift of the most-significant-bit-first register. -/
theorem crcShiftMsb_toNat (poly rem : Byte) :
    (crcShiftMsb poly rem).toNat = Spec.shiftUp poly.toNat rem.toNat := by
  have hlt := rem.isLt
  have htop : rem.getLsbD 7 = decide (128 ≤ rem.toNat) := BitVec.msb_eq_decide rem
  have hshift : (rem <<< 1).toNat = 2 * rem.toNat % 256 := by
    rw [BitVec.toNat_shiftLeft, Nat.shiftLeft_eq, pow_one, mul_comm]
  unfold crcShiftMsb Spec.shiftUp
  rw [htop]
  by_cases h : 128 ≤ rem.toNat
  · simp only [h, decide_true, if_true, BitVec.toNat_xor, hshift]
    rw [show 2 * rem.toNat % 256 = 2 * rem.toNat - 256 by omega]
  · simp only [h, decide_false, Bool.false_eq_true, if_false, hshift]
    omega

/-- R202: one shift of the least-significant-bit-first register. -/
theorem crcShiftLsb_toNat (p rem : Byte) :
    (crcShiftLsb p rem).toNat = Spec.shiftDown p.toNat rem.toNat := by
  have hlow : rem.getLsbD 0 = decide (rem.toNat % 2 = 1) := by
    rw [← BitVec.testBit_toNat, Nat.testBit_zero]
  have hshift : (rem >>> 1).toNat = rem.toNat / 2 := by
    rw [BitVec.toNat_ushiftRight, Nat.shiftRight_eq_div_pow, pow_one]
  unfold crcShiftLsb Spec.shiftDown
  rw [hlow]
  by_cases h : rem.toNat % 2 = 1 <;> simp [h, hshift]

/-- R13: the bit reversal on numbers. -/
theorem rev8_toNat (v : Byte) : (rev8 v).toNat = Spec.revNat v.toNat := by
  revert v
  decide

/-- R201: CRC8_MSB on numbers. -/
theorem crc8MsbOf_toNat (poly init : Byte) (data : List Byte) :
    (crc8MsbOf poly init data).toNat = Spec.crcUp poly.toNat init.toNat data := by
  have hshift : Function.Semiconj BitVec.toNat (crcShiftMsb poly) (Spec.shiftUp poly.toNat) :=
    crcShiftMsb_toNat poly
  refine (List.foldl_hom BitVec.toNat fun rem b => ?_).symm
  rw [crcByteMsb, (hshift.iterate_right 8).eq, BitVec.toNat_xor]

/-- R202: CRC8_LSB on numbers. -/
theorem crc8LsbOf_toNat (poly init : Byte) (data : List Byte) :
    (crc8LsbOf poly init data).toNat = Spec.crcDown poly.toNat init.toNat data := by
  have hshift : Function.Semiconj BitVec.toNat (crcShiftLsb (rev8 poly))
      (Spec.shiftDown (Spec.revNat poly.toNat)) := by
    rw [← rev8_toNat]
    exact crcShiftLsb_toNat (rev8 poly)
  unfold Spec.crcDown
  rw [← rev8_toNat init]
  refine (List.foldl_hom BitVec.toNat fun rem b => ?_).symm
  rw [crcByteLsb, (hshift.iterate_right 8).eq, BitVec.toNat_xor]

/-! ## The selector (R203 to R206) -/

theorem byte_eq_iff_toNat (x : Byte) (n : Nat) (hn : n < 256) :
    x = BitVec.ofNat 8 n ↔ x.toNat = n := by
  rw [← BitVec.toNat_inj, BitVec.toNat_ofNat, Nat.mod_eq_of_lt hn]

/-- R203, R204, R206: the CRC of the packet's type, on numbers. -/
theorem crcCalc_toNat (b : Packet) : (crcCalc b).toNat = Spec.expectedCrc b := by
  have hA := byte_eq_iff_toNat b[0] 0x50 (by decide)
  have hB := byte_eq_iff_toNat b[0] 0x70 (by decide)
  simp only [crcCalc, Spec.expectedCrc, hA, hB]
  split
  · rw [crcA, BitVec.toNat_xor, BitVec.toNat_not, crc8MsbOf_toNat]
    rfl
  · split
    · rw [crcB, crc8LsbOf_toNat]
      rfl
    · rfl

theorem crcCalc_eq (b : Packet) : crcCalc b = BitVec.ofNat 8 (Spec.expectedCrc b) := by
  rw [← crcCalc_toNat, BitVec.ofNat_toNat, BitVec.setWidth_eq]

/-- R206: the recognised types, on numbers. -/
theorem typeKnown_eq_recognised (b : Packet) : typeKnown b[0] = Spec.recognised b := by
  have hbeq (n : Nat) (hn : n < 256) : (b[0] == BitVec.ofNat 8 n) = (b[0].toNat == n) := by
    rw [Bool.eq_iff_iff, beq_iff_eq, beq_iff_eq, byte_eq_iff_toNat _ _ hn]
  rw [typeKnown, Spec.recognised, hbeq 0x50 (by decide), hbeq 0x70 (by decide)]

/-- R206: the packets that validate, on numbers. -/
theorem crcSelect_ok_eq_validates (b : Packet) : (crcSelect b).ok = Spec.validates b := by
  show (typeKnown b[0] && crcCalc b == b[21]) = (Spec.recognised b && _)
  rw [typeKnown_eq_recognised, ← crcCalc_toNat, Bool.eq_iff_iff]
  simp only [Bool.and_eq_true, beq_iff_eq, BitVec.toNat_inj]

/-! ## The response frame (R94, R210) -/

/-- R90: eight bytes, big-endian. -/
theorem bytes64_append (a b c d e f g h : Byte) :
    bytes64 (a ++ b ++ c ++ d ++ e ++ f ++ g ++ h) = [a, b, c, d, e, f, g, h] := by
  have high : (a ++ b ++ c ++ d ++ e ++ f ++ g ++ h).extractLsb' 32 32 = be32 a b c d := by
    apply BitVec.eq_of_getLsbD_eq
    intro i hi
    simp only [be32, BitVec.getLsbD_extractLsb', BitVec.getLsbD_append, hi, decide_true,
      Bool.true_and]
    rw [if_neg (by omega), if_neg (by omega), if_neg (by omega), if_neg (by omega),
      show 32 + i - 8 - 8 - 8 - 8 = i by omega]
  have low : (a ++ b ++ c ++ d ++ e ++ f ++ g ++ h).extractLsb' 0 32 = be32 e f g h := by
    apply BitVec.eq_of_getLsbD_eq
    intro i hi
    simp only [be32, BitVec.getLsbD_extractLsb', BitVec.getLsbD_append, hi, decide_true,
      Bool.true_and, zero_add]
    rw [if_pos (show i - 8 - 8 - 8 < 8 by omega)]
  rw [bytes64, high, low, bytes32_be32, bytes32_be32]
  rfl

/-- The 22 bytes of a store, written out. -/
theorem packet_toList (b : Packet) :
    b.toList = [b[0], b[1], b[2], b[3], b[4], b[5], b[6], b[7], b[8], b[9], b[10], b[11], b[12],
      b[13], b[14], b[15], b[16], b[17], b[18], b[19], b[20], b[21]] := by
  refine List.ext_getElem (by simp) fun i hi _ => ?_
  rw [Vector.length_toList] at hi
  rw [Vector.getElem_toList]
  interval_cases i <;> rfl

/-- R94, R210: the answer of a parse of `b`: its bytes, the CRC it should hold, and the flags. -/
theorem parseAnswer_parsed (b : Packet) :
    statusByte .ok :: parseAnswer (parsed b) = Spec.parseReply b := by
  have hserial : bytes32 (parsed b).pSerial = [b[1], b[2], b[3], b[4]] := by
    show bytes32 (bufBytesBE b 1 4) = _
    rw [bufBytesBE_four b 1 (by decide)]
    exact bytes32_be32 _ _ _ _
  have hdata1 : bytes64 (parsed b).pData1 =
      [b[5], b[6], b[7], b[8], b[9], b[10], b[11], b[12]] := by
    show bytes64 (bufBytesBE b 5 8) = _
    rw [bufBytesBE_eight b 5 (by decide)]
    exact bytes64_append _ _ _ _ _ _ _ _
  have hdata2 : bytes64 (parsed b).pData2 =
      [b[13], b[14], b[15], b[16], b[17], b[18], b[19], b[20]] := by
    show bytes64 (bufBytesBE b 13 8) = _
    rw [bufBytesBE_eight b 13 (by decide)]
    exact bytes64_append _ _ _ _ _ _ _ _
  have hflags : parseFlagsByte (parsed b).pKnown (parsed b).pOk =
      Spec.twoBits (Spec.recognised b) (Spec.validates b) := by
    rw [twoBits_eq_toByte, ← typeKnown_eq_recognised, ← crcSelect_ok_eq_validates]
    rfl
  rw [parseAnswer, hserial, hdata1, hdata2, hflags, Spec.parseReply, packet_toList, ← crcCalc_eq]
  rfl

end Sys2Proof.Machine
end

section
/-! PROOFS. One block talking to itself: what REPLAY of a loaded job feeds to the decoder
(30_encoding.md rule R101; 44_encoder.md rule R245), and that the packet comes back
(42_decoder_fsm.md rule R188; 43_parser_crc.md rule R210). -/

namespace Sys2Proof.Machine

/-! ## One symbol of a running job -/

theorem bitToByte_getElem_zero (b : Bool) : (bitToByte b)[0] = b := by
  cases b <;> rfl

/-- R94: the symbol of an ENC_YIELD answer is the one answered. -/
theorem symbolOfFrame_symbolAnswer (y : Symbol) :
    symbolOfFrame (statusByte .ok :: symbolAnswer y) = some y := by
  simp [symbolOfFrame, symbolAnswer, bytes32, bitToByte_getElem_zero]

/-- R245: a running job with repetitions left answers the symbol at the cursor. -/
theorem exec_encYield_of_jobRunning {s : State} (hjob : Spec.jobRunning s.enc)
    (hrep : s.enc.eRep ≠ 0#32) {y : Symbol} (hy : s.enc.eSym[s.enc.eCur.toNat]? = some y) :
    exec .encYield s = .next (writeEncoderSide (advanceCursor s.enc) s.freeTick
      (statusByte .ok :: symbolAnswer y) s) := by
  obtain ⟨hfault, hactive, hlen, hcur⟩ := hjob
  have hidle : encIdle s.enc = false := by simp [encIdle, hrep, hactive]
  obtain ⟨hlt, rfl⟩ := List.getElem?_eq_some_iff.mp hy
  exact execEncYield_symbol hfault hidle (symRead_meaningful s _ hcur hlt)

/-- R101: the block after one round of REPLAY: the cursor has advanced, and the decoder has taken
the symbol `y`. -/
def afterReplayed (y : Symbol) (x : DecState) (ready : Bool) (s : State) : State :=
  answerFeed ready
    { writeEncoderSide (advanceCursor s.enc) s.freeTick (statusByte .ok :: symbolAnswer y) s with
      dec := x }

/-- R101: one round of REPLAY is the yield of a symbol and its edge. -/
theorem replay_succ {s : State} (hjob : Spec.jobRunning s.enc) (hrep : s.enc.eRep ≠ 0#32)
    {y : Symbol} (hy : s.enc.eSym[s.enc.eCur.toNat]? = some y) {x : DecState} {ready : Bool}
    (hedge : feedEdge s.cfg y.level y.duration.toNat s.dec = some (x, ready)) (n : Nat) :
    replay (n + 1) s = replay n (afterReplayed y x ready s) := by
  have hyield := exec_encYield_of_jobRunning hjob hrep hy
  have hfeed := exec_decFeed (l := y.level) (d := y.duration)
    (s := writeEncoderSide (advanceCursor s.enc) s.freeTick (statusByte .ok :: symbolAnswer y) s)
    hedge
  have hframe : symbolOfFrame (writeEncoderSide (advanceCursor s.enc) s.freeTick
      (statusByte .ok :: symbolAnswer y) s).port.resp = some y := symbolOfFrame_symbolAnswer y
  simp only [replay, hyield, hframe, hfeed]
  rfl

/-! ## The rest of a repetition -/

/-- R245: the encoder at the end of a repetition: the cursor at 0 and one repetition less. -/
def endOfRepetition (e : EncState) : EncState := { e with eCur := 0#9, eRep := e.eRep - 1#32 }

/-- R245: the cursor after the last symbol. -/
theorem advanceCursor_last {e : EncState} (hlen : e.eLen.toNat = e.eSym.length)
    (hlast : e.eCur.toNat + 1 = e.eSym.length) : advanceCursor e = endOfRepetition e := by
  have hend : e.eCur + 1#9 = e.eLen := by bv_omega
  obtain ⟨-, h⟩ | ⟨hne, -⟩ := advanceCursor_cases e
  · exact h
  · exact absurd hend hne

/-- R245: the cursor after a symbol that is not the last. -/
theorem advanceCursor_inside {e : EncState} (hlen : e.eLen.toNat = e.eSym.length)
    (hmore : e.eCur.toNat + 1 < e.eSym.length) :
    advanceCursor e = { e with eCur := e.eCur + 1#9 } ∧
      (e.eCur + 1#9).toNat = e.eCur.toNat + 1 := by
  have hend : e.eCur + 1#9 ≠ e.eLen := by bv_omega
  refine ⟨?_, by bv_omega⟩
  obtain ⟨h, -⟩ | ⟨-, h⟩ := advanceCursor_cases e
  · exact absurd h hend
  · exact h

/-- R101, R245: REPLAY of what is left of a repetition feeds those symbols to the decoder and ends
the repetition. -/
theorem exists_replay_eq {c : Config} {x z : DecState} {ys : List Symbol} {ps : List Bool}
    (hrun : FeedRun c x ys z ps) {s : State} (hcfg : s.cfg = c) (hdec : s.dec = x)
    (hjob : Spec.jobRunning s.enc) (hrep : s.enc.eRep ≠ 0#32)
    (hys : s.enc.eSym.drop s.enc.eCur.toNat = ys) :
    ∃ u, replay ys.length s = .next u ∧ u.dec = z ∧ u.enc = endOfRepetition s.enc := by
  induction hrun generalizing s with
  | nil x =>
    obtain ⟨-, -, hlen, hcur⟩ := hjob
    have hend := List.drop_eq_nil_iff.mp hys
    omega
  | @cons x x' z y ys ready ps hedge hrest ih =>
    subst hcfg hdec
    obtain ⟨hfault, hactive, hlen, hcur⟩ := id hjob
    have hlt : s.enc.eCur.toNat < s.enc.eSym.length := hlen ▸ hcur
    rw [List.drop_eq_getElem_cons hlt, List.cons.injEq] at hys
    obtain ⟨hy, hys⟩ := hys
    rw [List.length_cons,
      replay_succ hjob hrep (List.getElem?_eq_some_iff.mpr ⟨hlt, hy⟩) hedge]
    obtain hlast | hmore : s.enc.eCur.toNat + 1 = s.enc.eSym.length ∨
        s.enc.eCur.toNat + 1 < s.enc.eSym.length := by omega
    · obtain rfl : ys = [] := by rw [← hys, hlast, List.drop_length]
      cases hrest
      exact ⟨_, rfl, rfl, advanceCursor_last hlen hlast⟩
    · obtain ⟨hadv, hcount⟩ := advanceCursor_inside hlen hmore
      have henc : (afterReplayed y x' ready s).enc =
          { s.enc with eCur := s.enc.eCur + 1#9 } := hadv
      obtain ⟨u, hu, hz, hue⟩ := ih (s := afterReplayed y x' ready s) rfl rfl
        (by rw [henc]; exact ⟨hfault, hactive, hlen, by rw [hcount, hlen]; exact hmore⟩)
        (by rw [henc]; exact hrep) (by rw [henc, hcount]; exact hys)
      exact ⟨u, hu, hz, by rw [hue, henc]; rfl⟩

/-! ## Load, replay, parse -/

/-- R233: a load with a key, a repeat count and 176 bits stores the generated sequence. -/
theorem exec_encLoad_of_genSymbols {s : State} {key : Packet} {m : MeState} {ys : List Symbol}
    (hfault : s.enc.eFault = false) (hgen : genSymbols s.cfg key = some (m, ys))
    (rep : RepCount) :
    exec (.encLoad true true 176#16 rep key) s =
      .next (answer .ok [] { s with enc := loadedJob key rep m ys s.enc }) := by
  simp [exec, execEncLoad, hfault, acceptLoad_eq hgen]

/-- R240: a transmission has at least one symbol, and fits `E_SYM`. -/
theorem transmission_length (c : Config) (b : Packet) :
    223 ≤ (transmission c b).length ∧ (transmission c b).length ≤ 398 := by
  obtain ⟨q, ys, hgen, hlo, hhi⟩ := genSymbols_some c b
  obtain ⟨q', hgen'⟩ := genSymbols_eq c b
  obtain ⟨-, rfl⟩ := Prod.mk.inj (Option.some.inj (hgen.symm.trans hgen'))
  exact ⟨hlo, hhi⟩

/-- R36, R240: `E_LEN` holds the length of a transmission. -/
theorem ofNat_transmission_length (c : Config) (b : Packet) :
    (BitVec.ofNat 9 (transmission c b).length).toNat = (transmission c b).length := by
  have hlen := transmission_length c b
  rw [BitVec.toNat_ofNat]
  omega

/-- R210: PKT_PARSE of a held packet. -/
theorem exec_pktParse_dec {s : State} (h : s.dec.dstate = .cpl) :
    exec (.pktParse .dec) s = .next (parsePacket s.dec.dbuf s) := by
  simp only [exec, execPktParse, h, if_true]

/-- Settles O60: the load stores the transmission, its replay is a run of its edges, which completes
(R188), and the parse answers the packet held. -/
theorem loadReplayParse : Obligations.LoadReplayParse := by
  intro key rep s hc hinv hrst hcb hfault hrep hkey
  rw [bitAt_eq_bufBit] at hkey
  obtain ⟨q, hgen⟩ := genSymbols_eq s.cfg key
  generalize MeState.mk .start q = m at hgen
  obtain ⟨z, ⟨n, hrun⟩, hz, -, hzb⟩ := exists_completingRun_transmission hc hinv hrst hcb hkey
  have hlen := ofNat_transmission_length s.cfg key
  have hpos := transmission_length s.cfg key
  have hjob : Spec.jobRunning (loadedJob key rep m (transmission s.cfg key) s.enc) :=
    ⟨hfault, rfl, hlen, by show 0 < _; simp only [loadedJob, hlen]; omega⟩
  obtain ⟨u, hreplay, rfl, hue⟩ := exists_replay_eq hrun
    (s := answer .ok [] { s with enc := loadedJob key rep m (transmission s.cfg key) s.enc })
    rfl rfl hjob hrep List.drop_zero
  refine ⟨_, u, _, exec_encLoad_of_genSymbols hfault hgen rep, ?replay, hz, ?cursor, ?count,
    exec_pktParse_dec hz, ?answer⟩
  case replay =>
    show replay (BitVec.ofNat 9 _).toNat _ = _
    rw [hlen, hreplay]
  case cursor => rw [hue]; rfl
  case count =>
    rw [hue]
    show (rep - 1#32).toNat = rep.toNat - 1
    bv_omega
  case answer => rw [hzb]; exact parseAnswer_parsed key

end Sys2Proof.Machine
end

section
/-! PROOFS. The statements of the parser and CRC family (43_parser_crc.md): the two CRC operations
and the selector on numbers, that the CRCs mirror each other, that every packet that validates has
an even number of 1 bits, and what PKT_PARSE and PKT_SERIALIZE answer. -/

namespace Sys2Proof.Machine

/-! ## The parity of the CRCs (R201, R202) -/

/-- Whether a byte has an odd number of 1 bits. -/
def parity (v : Byte) : Bool :=
  v.getLsbD 0 ^^ v.getLsbD 1 ^^ v.getLsbD 2 ^^ v.getLsbD 3 ^^
    v.getLsbD 4 ^^ v.getLsbD 5 ^^ v.getLsbD 6 ^^ v.getLsbD 7

/-- Whether bytes hold an odd number of 1 bits between them. -/
def dataParity : List Byte → Bool
  | [] => false
  | b :: bs => parity b ^^ dataParity bs

theorem parity_xor (v w : Byte) : parity (v ^^^ w) = (parity v ^^ parity w) := by
  have hcomm : Std.Commutative Bool.xor := ⟨Bool.xor_comm⟩
  simp only [parity, BitVec.getLsbD_xor]
  ac_rfl

theorem parity_not (v : Byte) : parity (~~~v) = parity v := by
  simp [parity]

/-- A shift up loses the bit that leaves at the top. -/
theorem parity_shiftLeft_one (v : Byte) : parity (v <<< 1) = (parity v ^^ v.getLsbD 7) := by
  simp [parity]

/-- A shift down loses the bit that leaves at the bottom. -/
theorem parity_ushiftRight_one (v : Byte) : parity (v >>> 1) = (v.getLsbD 0 ^^ parity v) := by
  simp [parity]

/-- R201: under a polynomial of odd parity, the bit that leaves the register at the top is made up
for by the polynomial. -/
theorem parity_crcShiftMsb {poly : Byte} (hpoly : parity poly = true) (rem : Byte) :
    parity (crcShiftMsb poly rem) = parity rem := by
  by_cases hout : rem.getLsbD 7 = true
  · rw [crcShiftMsb, if_pos hout, parity_xor, parity_shiftLeft_one, hout, hpoly, Bool.xor_assoc,
      Bool.xor_self, Bool.xor_false]
  · rw [crcShiftMsb, if_neg hout, parity_shiftLeft_one, Bool.eq_false_of_not_eq_true hout,
      Bool.xor_false]

/-- R202: the same for the bit that leaves at the bottom. -/
theorem parity_crcShiftLsb {p : Byte} (hp : parity p = true) (rem : Byte) :
    parity (crcShiftLsb p rem) = parity rem := by
  by_cases hout : rem.getLsbD 0 = true
  · rw [crcShiftLsb, if_pos hout, parity_xor, parity_ushiftRight_one, hout, hp, Bool.true_xor,
      Bool.xor_true, Bool.not_not]
  · rw [crcShiftLsb, if_neg hout, parity_ushiftRight_one, Bool.eq_false_of_not_eq_true hout,
      Bool.false_xor]

theorem parity_iterate {shift : Byte → Byte} (hshift : ∀ v, parity (shift v) = parity v)
    (n : Nat) (v : Byte) : parity (shift^[n] v) = parity v := by
  have hsemiconj : Function.Semiconj parity shift id := hshift
  rw [(hsemiconj.iterate_right n).eq, Function.iterate_id, id_eq]

/-- Bytes clocked through a register whose shift keeps the parity add their parity to it. -/
theorem parity_foldl_iterate {shift : Byte → Byte} (hshift : ∀ v, parity (shift v) = parity v)
    (n : Nat) (data : List Byte) (init : Byte) :
    parity (data.foldl (fun rem b => shift^[n] (rem ^^^ b)) init) =
      (parity init ^^ dataParity data) := by
  induction data generalizing init with
  | nil => simp [dataParity]
  | cons b bs ih =>
    rw [List.foldl_cons, ih, parity_iterate hshift, parity_xor, dataParity, Bool.xor_assoc]

theorem parity_crc8MsbOf {poly : Byte} (hpoly : parity poly = true) (init : Byte)
    (data : List Byte) : parity (crc8MsbOf poly init data) = (parity init ^^ dataParity data) :=
  parity_foldl_iterate (parity_crcShiftMsb hpoly) 8 data init

theorem parity_crc8LsbOf {poly : Byte} (hpoly : parity (rev8 poly) = true) (init : Byte)
    (data : List Byte) :
    parity (crc8LsbOf poly init data) = (parity (rev8 init) ^^ dataParity data) :=
  parity_foldl_iterate (parity_crcShiftLsb hpoly) 8 data (rev8 init)

/-! ## A packet that validates has even parity (R203, R204, R206) -/

/-- The parity of a store, as the bytes that variant A covers lie in it. -/
theorem dataParity_toList (b : Packet) :
    dataParity b.toList =
      (parity b[0] ^^ dataParity ((b.toList.drop 1).take 20) ^^ parity b[21]) := by
  simp [packet_toList, dataParity]

/-- The bytes that variant B covers are those of variant A and the type byte. -/
theorem dataParity_take_21 (b : Packet) :
    dataParity (b.toList.take 21) = (parity b[0] ^^ dataParity ((b.toList.drop 1).take 20)) := by
  simp [packet_toList, dataParity]

/-- R203: the type byte, which variant A does not cover, is 0x50 there, of even parity. -/
theorem parity_crcA (b : Packet) :
    parity (crcA b) = dataParity ((b.toList.drop 1).take 20) := by
  rw [crcA, parity_xor, parity_not, parity_crc8MsbOf (by decide)]
  simp [parity]

/-- R204: variant B covers the type byte. -/
theorem parity_crcB (b : Packet) :
    parity (crcB b) = (parity b[0] ^^ dataParity ((b.toList.drop 1).take 20)) := by
  rw [crcB, parity_crc8LsbOf (by decide), dataParity_take_21,
    show parity (rev8 0xFF#8) = false by decide, Bool.false_xor]

theorem typeKnown_iff (t : Byte) : typeKnown t = true ↔ t = 0x50#8 ∨ t = 0x70#8 := by
  simp [typeKnown]

theorem crcSelect_ok_iff (b : Packet) :
    (crcSelect b).ok = true ↔ typeKnown b[0] = true ∧ crcCalc b = b[21] := by
  simp [crcSelect]

/-- R206: the computed CRC of a known type has the parity of bytes 0..20. -/
theorem parity_crcCalc {b : Packet} (h : typeKnown b[0] = true) :
    parity (crcCalc b) = (parity b[0] ^^ dataParity ((b.toList.drop 1).take 20)) := by
  obtain hA | hB := (typeKnown_iff b[0]).mp h
  · rw [crcCalc, if_pos hA, parity_crcA, hA, show parity 0x50#8 = false by decide, Bool.false_xor]
  · rw [crcCalc, hB, if_neg (by decide), if_pos rfl, parity_crcB, hB]

/-- R206: the 22 bytes of a packet that validates hold an even number of 1 bits. -/
theorem dataParity_of_crcSelect_ok {b : Packet} (h : (crcSelect b).ok = true) :
    dataParity b.toList = false := by
  obtain ⟨hknown, hcrc⟩ := (crcSelect_ok_iff b).mp h
  rw [dataParity_toList, ← hcrc, parity_crcCalc hknown, Bool.xor_self]

/-! ## One inverted bit (R62) -/

theorem dataParity_set_xor {l : List Byte} {i : Nat} (hi : i < l.length) (m : Byte) :
    dataParity (l.set i (l[i] ^^^ m)) = (dataParity l ^^ parity m) := by
  induction l generalizing i with
  | nil => cases hi
  | cons b bs ih =>
    cases i with
    | zero =>
      rw [List.set_cons_zero, List.getElem_cons_zero, dataParity, dataParity, parity_xor,
        Bool.xor_right_comm]
    | succ i =>
      simp only [List.set_cons_succ, List.getElem_cons_succ, dataParity, Bool.xor_assoc]
      rw [ih]

/-- A byte with one bit set has odd parity. -/
theorem parity_one_shiftLeft (j : Nat) (hj : j < 8) : parity (1#8 <<< j) = true := by
  interval_cases j <;> rfl

/-- Inverting one bit changes the parity of a store. -/
theorem dataParity_flipBit (b : Packet) {k : Nat} (hk : k < 176) :
    dataParity (Spec.flipBit b k).toList = !dataParity b.toList := by
  have hbyte : k / 8 < 22 := by omega
  have hget : (b[k / 8]?).getD 0#8 = b.toList[k / 8]'(by simpa using hbyte) := by
    rw [byte_getD b _ hbyte, Vector.getElem_toList]
  rw [Spec.flipBit, hget, Vector.toList_setIfInBounds, dataParity_set_xor,
    parity_one_shiftLeft _ (by omega), Bool.xor_true]

/-- R206: no packet that validates is one bit away from another. -/
theorem crcSelect_flipBit_not_ok {b : Packet} {k : Nat} (h : (crcSelect b).ok = true)
    (hk : k < 176) : (crcSelect (Spec.flipBit b k)).ok = false := by
  by_contra hok
  have heven := dataParity_of_crcSelect_ok (Bool.eq_true_of_not_eq_false hok)
  rw [dataParity_flipBit b hk, dataParity_of_crcSelect_ok h] at heven
  cases heven

/-- The type byte with bit `k` of the store inverted. -/
theorem flipBit_zero_of_lt (b : Packet) {k : Nat} (hk : k < 8) :
    (Spec.flipBit b k)[0] = b[0] ^^^ (1#8 <<< (7 - k)) := by
  simp [Spec.flipBit, Nat.div_eq_of_lt hk, Nat.mod_eq_of_lt hk]

/-- A bit of bytes 1 to 21 is none of the type byte. -/
theorem flipBit_zero_of_ge (b : Packet) {k : Nat} (hk : 8 ≤ k) :
    (Spec.flipBit b k)[0] = b[0] := by
  have hbyte : k / 8 ≠ 0 := by omega
  simp [Spec.flipBit, hbyte]

/-- R206: the two types differ in bit 5, and any other inverted bit leaves no known type. -/
theorem typeKnown_xor_bit {t : Byte} (ht : typeKnown t = true) {k : Nat} (hk : k < 8) :
    t ^^^ (1#8 <<< (7 - k)) ≠ t ∧ (typeKnown (t ^^^ (1#8 <<< (7 - k))) = true ↔ k = 2) := by
  have hbits : ∀ k : Fin 8, ∀ t ∈ [0x50#8, 0x70#8], t ^^^ (1#8 <<< (7 - k.val)) ≠ t ∧
      (typeKnown (t ^^^ (1#8 <<< (7 - k.val))) = true ↔ k.val = 2) := by decide
  exact hbits ⟨k, hk⟩ t (by simpa [typeKnown_iff] using ht)

/-- Settles O42, by the parity of the 22 bytes: it is even in every packet that validates, and an
inverted bit makes it odd. -/
theorem singleBitErrorDetected : Obligations.SingleBitErrorDetected := by
  intro b k h hk
  obtain ⟨hknown, -⟩ := (crcSelect_ok_iff b).mp h
  refine ⟨crcSelect_flipBit_not_ok h hk, fun hge => ?_, fun hlt => ?_⟩
  · show typeKnown (Spec.flipBit b k)[0] = true
    rw [flipBit_zero_of_ge b hge, hknown]
  · show _ ∧ (typeKnown (Spec.flipBit b k)[0] = true ↔ _)
    rw [flipBit_zero_of_lt b hlt]
    exact typeKnown_xor_bit hknown hlt

/-! ## The mirror image (R13, R202) -/

theorem rev8_rev8 (v : Byte) : rev8 (rev8 v) = v := BitVec.reverse_reverse_eq

theorem rev8_getLsbD_zero (v : Byte) : (rev8 v).getLsbD 0 = v.getLsbD 7 := by
  rw [rev8, BitVec.getLsbD_reverse]
  rfl

theorem rev8_xor (v w : Byte) : rev8 (v ^^^ w) = rev8 v ^^^ rev8 w := by
  apply BitVec.eq_of_getLsbD_eq
  simp [rev8, BitVec.getLsbD_reverse]

theorem rev8_shiftLeft_one (v : Byte) : rev8 (v <<< 1) = rev8 v >>> 1 := by
  apply BitVec.eq_of_getLsbD_eq
  intro i _
  rw [rev8, rev8, BitVec.getLsbD_ushiftRight, BitVec.getLsbD_reverse, BitVec.getLsbD_reverse,
    BitVec.getMsbD_shiftLeft, Nat.add_comm]

/-- R202: one shift of the mirrored register. -/
theorem rev8_crcShiftMsb (poly rem : Byte) :
    rev8 (crcShiftMsb poly rem) = crcShiftLsb (rev8 poly) (rev8 rem) := by
  unfold crcShiftMsb crcShiftLsb
  rw [rev8_getLsbD_zero, apply_ite rev8, rev8_xor, rev8_shiftLeft_one]

/-- R202: one byte clocked through the mirrored register. -/
theorem rev8_crcByteMsb (poly rem b : Byte) :
    rev8 (crcByteMsb poly rem b) = crcByteLsb (rev8 poly) (rev8 rem) (rev8 b) := by
  have hshift : Function.Semiconj rev8 (crcShiftMsb poly) (crcShiftLsb (rev8 poly)) :=
    rev8_crcShiftMsb poly
  rw [crcByteMsb, (hshift.iterate_right 8).eq, rev8_xor, crcByteLsb]

/-- Settles O41: `rev8` carries each byte's clocking over, so the whole fold. -/
theorem crcVariantsMirror : Obligations.CrcVariantsMirror := by
  intro poly init data
  rw [crc8MsbOf, List.foldl_map]
  refine List.foldl_hom rev8 fun rem b => ?_
  rw [rev8_crcByteMsb, rev8_rev8]

/-! ## The CRC operations -/

/-- R201: CRC8_MSB answers the function's value, and writes nothing else. -/
theorem exec_crc8Msb (poly init : Byte) (data : List Byte) (s : State) :
    exec (.crc8Msb poly init data) s =
      .next (Spec.replies s [0x00#8, crc8MsbOf poly init data]) := rfl

/-- R202: CRC8_LSB answers the function's value, and writes nothing else. -/
theorem exec_crc8Lsb (poly init : Byte) (data : List Byte) (s : State) :
    exec (.crc8Lsb poly init data) s =
      .next (Spec.replies s [0x00#8, crc8LsbOf poly init data]) := rfl

/-- Settles O39: the frame is the operation's encoding (O1), and the register runs on numbers. -/
theorem crcMsbAnswers : Obligations.CrcMsbAnswers := by
  intro poly init data s hlen
  refine ⟨decodeOfEncode (.crc8Msb poly init data) (decide_eq_true hlen), ?_⟩
  rw [exec_crc8Msb, ← crc8MsbOf_toNat, BitVec.ofNat_toNat, BitVec.setWidth_eq]

/-- Settles O40: the frame is the operation's encoding (O1), and the register runs on numbers. -/
theorem crcLsbAnswers : Obligations.CrcLsbAnswers := by
  intro poly init data s hlen
  refine ⟨decodeOfEncode (.crc8Lsb poly init data) (decide_eq_true hlen), ?_⟩
  rw [exec_crc8Lsb, ← crc8LsbOf_toNat, BitVec.ofNat_toNat, BitVec.setWidth_eq]

/-! ## The selector and the outcome (R206, R211) -/

/-- R206: the selector, on numbers. -/
theorem crcSelect_eq (b : Packet) :
    crcSelect b = { known := Spec.recognised b, value := BitVec.ofNat 8 (Spec.expectedCrc b),
                    ok := Spec.validates b } := by
  rw [← typeKnown_eq_recognised, ← crcCalc_eq, ← crcSelect_ok_eq_validates]
  rfl

/-- R210: the parser's registers after a parse are the fields by their byte offsets. -/
theorem parsed_eq_parserAfter (b : Packet) : parsed b = Spec.parserAfter b := by
  rw [parsed, crcSelect_eq, bufBytesBE_four b 1 (by decide), bufBytesBE_eight b 5 (by decide),
    bufBytesBE_eight b 13 (by decide)]
  rfl

theorem validates_iff (b : Packet) :
    Spec.validates b = true ↔ Spec.recognised b = true ∧ Spec.expectedCrc b = b[21].toNat := by
  simp [Spec.validates]

theorem recognised_eq_false_iff (b : Packet) :
    Spec.recognised b = false ↔ b[0] ≠ 0x50#8 ∧ b[0] ≠ 0x70#8 := by
  simp [← typeKnown_eq_recognised, typeKnown]

/-- R211: the outcome after a parse, by the two flags. -/
theorem crcStatus_parsed (b : Packet) :
    crcStatus (parsed b) =
      if Spec.recognised b = false then .unverifiable
      else if Spec.validates b = true then .ok else .wrong := by
  rw [parsed_eq_parserAfter]
  rfl

/-- Settles O38, by whether the type is recognised: if not, nothing validates; if so, the outcome is
that of the comparison. -/
theorem crcSelectorAnswers : Obligations.CrcSelectorAnswers := by
  intro b
  refine ⟨crcSelect_eq b, ?_⟩
  rw [← recognised_eq_false_iff, validates_iff, crcStatus_parsed]
  simp only [validates_iff]
  cases Spec.recognised b with
  | false => simp
  | true => by_cases hcrc : Spec.expectedCrc b = b[21].toNat <;> simp [hcrc]

/-! ## PKT_PARSE and PKT_SERIALIZE -/

/-- R210: a successful parse writes the parser and the answer, and nothing else. -/
theorem parsePacket_eq (b : Packet) (s : State) :
    parsePacket b s = Spec.replies { s with prs := Spec.parserAfter b } (Spec.parseReply b) := by
  rw [← parsed_eq_parserAfter, ← parseAnswer_parsed]
  rfl

theorem exec_pktParse_buf (key : Packet) (s : State) :
    exec (.pktParse (.buf key)) s = .next (parsePacket key s) := rfl

/-- R209: PKT_PARSE of a decoder that holds no packet. -/
theorem exec_pktParse_dec_notReady {s : State} (h : s.dec.dstate ≠ .cpl) :
    exec (.pktParse .dec) s = .next (Spec.replies s [0x03#8]) := by
  simp only [exec, execPktParse, h, if_false]
  rfl

/-- Settles O43: the frame is the operation's encoding (O1), and every operand is parsed. -/
theorem parseOperand : Obligations.ParseOperand := by
  intro key s
  refine ⟨decodeOfEncode (.pktParse (.buf key)) rfl, ?_⟩
  rw [exec_pktParse_buf, parsePacket_eq]

/-- Settles O44, by whether the decoder holds a packet. -/
theorem parseDecoder : Obligations.ParseDecoder := by
  intro s
  refine ⟨decodeOfEncode (.pktParse .dec) rfl, fun hcpl => ?_, exec_pktParse_dec_notReady⟩
  rw [exec_pktParse_dec hcpl, parsePacket_eq]

/-- R214: PKT_SERIALIZE once a parse has succeeded. -/
theorem exec_pktSerialize_of_valid {s : State} (h : s.prs.pValid = true) :
    exec .pktSerialize s =
      .next (Spec.replies s (0x00#8 :: 0x00#8 :: 0xB0#8 :: s.prs.pbuf.toList)) := by
  simp only [exec, execPktSerialize, h, if_true]
  rfl

/-- R214: PKT_SERIALIZE before the first parse. -/
theorem exec_pktSerialize_of_not_valid {s : State} (h : s.prs.pValid = false) :
    exec .pktSerialize s = .next (Spec.replies s [0x03#8]) := by
  simp only [exec, execPktSerialize, h, Bool.false_eq_true, if_false]
  rfl

/-- Settles O45, by `P_VALID`. -/
theorem serializeAnswers : Obligations.SerializeAnswers :=
  fun _ => ⟨decodeOfEncode .pktSerialize rfl, exec_pktSerialize_of_valid,
    exec_pktSerialize_of_not_valid⟩

end Sys2Proof.Machine
end

section
/-! PROOFS. The sequence the encoder generates (44_encoder.md rules R234 to R240): its fixed
symbols, its data symbols and its length. -/

namespace Sys2Proof.Machine

/-! ## Pairs in a row -/

theorem getElem?_flatMap_pair_fst {α β : Type} (f g : α → β) (l : List α) (i : Nat) :
    (l.flatMap fun a => [f a, g a])[2 * i]? = l[i]?.map f := by
  induction l generalizing i with
  | nil => rfl
  | cons a l ih =>
    cases i with
    | zero => rfl
    | succ i => exact ih i

theorem getElem?_flatMap_pair_snd {α β : Type} (f g : α → β) (l : List α) (i : Nat) :
    (l.flatMap fun a => [f a, g a])[2 * i + 1]? = l[i]?.map g := by
  induction l generalizing i with
  | nil => rfl
  | cons a l ih =>
    cases i with
    | zero => rfl
    | succ i => exact ih i

/-! ## The wire bits (R236) -/

theorem wire_eq_wireBits (b : Packet) : Spec.wire b = wireBits b := by
  simp only [Spec.wire, wireBits, bitAt_eq_bufBit]

theorem wireBits_ne_nil (b : Packet) : wireBits b ≠ [] :=
  List.ne_nil_of_length_pos (by simp)

/-- R236: the last wire bit. -/
theorem wireBits_getLast? (b : Packet) : (wireBits b).getLast? = some (!bufBit b 175) := by
  simp [wireBits, List.getLast?_range]

/-! ## The last kind of a stream (R159) -/

theorem streamRest_getLast? (p : Bool) (ws : List Bool) :
    (Spec.streamRest p ws).getLast? = (p :: ws).getLast?.map shortKind := by
  induction ws generalizing p with
  | nil => rfl
  | cons w ws ih =>
    obtain rfl | rfl := Bool.eq_or_eq_not w p
    · simp [streamRest_cons_self, List.getLast?_cons, ih]
    · simp [streamRest_cons_not, List.getLast?_cons, ih]

/-- R159: the stream ends with the short of the last wire bit. -/
theorem stream_getLast? (ws : List Bool) :
    (Spec.stream ws).getLast? = ws.getLast?.map shortKind := by
  cases ws with
  | nil => rfl
  | cons w ws => simp [stream_cons, List.getLast?_cons, streamRest_getLast?]

/-! ## The fixed symbols (R234, R235, R237) -/

section
variable {c : Config}

/-- R9, R96: a symbol of a nominal duration in a sequence, its duration as a number. -/
theorem hasSymbol_of_eq_mkSymbol (hc : c.WellFormed) {ys : List Symbol} {i : Nat} {l : Level}
    {n : Nat} (h : ys[i]? = some (mkSymbol l n)) (hn : n ≤ nMark c) : Spec.hasSymbol ys i l n :=
  ⟨_, h, rfl, mkSymbol_duration_toNat hc l hn⟩

theorem transmission_getElem?_preamble (b : Packet) {i : Nat} (hi : i < 42) :
    (transmission c b)[i]? = (preamble c)[i]? := by
  rw [transmission, List.append_assoc, List.getElem?_append_left (by simpa using hi)]

theorem transmission_getElem?_syncHeader (b : Packet) {j : Nat} (hj : j < 4) :
    (transmission c b)[42 + j]? = (syncHeader c)[j]? := by
  rw [transmission, List.append_assoc, List.getElem?_append_right (by simp), preamble_length,
    Nat.add_sub_cancel_left, List.getElem?_append_left (by simpa using hj)]

/-- R237: the data ends with the closing symbol. -/
theorem onAir_getLast? (c : Config) (ks : List Kind) :
    (onAir c ks).getLast? = ks.getLast?.map fun k => mkSymbol (levelOf k) (nTerm c) := by
  obtain rfl | ⟨ks, k, rfl⟩ := ks.eq_nil_or_concat'
  · rfl
  · simp [onAir_concat]

/-- R237: the closing symbol is at the level of the last wire bit. -/
theorem transmission_getElem?_last (b : Packet) :
    (transmission c b)[(transmission c b).length - 1]? =
      some (mkSymbol (!bufBit b 175) (nTerm c)) := by
  rw [← List.getLast?_eq_getElem?, transmission, List.getLast?_append, onAir_getLast?,
    stream_getLast?, wireBits_getLast?]
  simp

/-- R234: the low symbol of preamble repetition `r`. -/
theorem hasSymbol_transmission_low (hc : c.WellFormed) (b : Packet) {r : Nat} (hr : r ≤ 20) :
    Spec.hasSymbol (transmission c b) (2 * r) false
      (if r = 0 then nFirstLow c else nShort c) := by
  have hnominals := nominals_of_wellFormed hc
  refine hasSymbol_of_eq_mkSymbol hc ?_ (by split <;> omega)
  rw [transmission_getElem?_preamble b (by omega), preamble, getElem?_flatMap_pair_fst,
    List.getElem?_range (by omega), Option.map_some]

/-- R234: the high symbol of preamble repetition `r`. -/
theorem hasSymbol_transmission_high (hc : c.WellFormed) (b : Packet) {r : Nat} (hr : r ≤ 20) :
    Spec.hasSymbol (transmission c b) (2 * r + 1) true
      (if r = 20 then nMark c else nShort c) := by
  have hnominals := nominals_of_wellFormed hc
  refine hasSymbol_of_eq_mkSymbol hc ?_ (by split <;> omega)
  rw [transmission_getElem?_preamble b (by omega), preamble, getElem?_flatMap_pair_snd,
    List.getElem?_range (by omega), Option.map_some]

/-- R235: a symbol of the sync header. -/
theorem hasSymbol_transmission_sync (hc : c.WellFormed) (b : Packet) {j : Nat} (hj : j < 4)
    {l : Level} (h : (syncHeader c)[j]? = some (mkSymbol l (nLong c))) :
    Spec.hasSymbol (transmission c b) (42 + j) l (nLong c) := by
  have hnominals := nominals_of_wellFormed hc
  exact hasSymbol_of_eq_mkSymbol hc ((transmission_getElem?_syncHeader b hj).trans h) (by omega)

/-- R237: the closing symbol. -/
theorem hasSymbol_transmission_closing (hc : c.WellFormed) (b : Packet) :
    Spec.hasSymbol (transmission c b) ((transmission c b).length - 1) (!bufBit b 175)
      (nTerm c) := by
  have hnominals := nominals_of_wellFormed hc
  exact hasSymbol_of_eq_mkSymbol hc (transmission_getElem?_last b) (by omega)

end

/-- Settles O48: the generated sequence is the transmission, whose symbols stand where its three
parts put them. -/
theorem sequenceFrame : Obligations.SequenceFrame := by
  intro c key hc
  obtain ⟨q, hgen⟩ := genSymbols_eq c key
  rw [bitAt_eq_bufBit]
  have sync {j : Nat} {l : Level} (hj : j < 4) := hasSymbol_transmission_sync hc key hj (l := l)
  exact ⟨_, _, hgen,
    fun r hr => ⟨hasSymbol_transmission_low hc key hr, hasSymbol_transmission_high hc key hr⟩,
    sync (j := 0) (by decide) rfl, sync (j := 1) (by decide) rfl, sync (j := 2) (by decide) rfl,
    sync (j := 3) (by decide) rfl, hasSymbol_transmission_closing hc key⟩

/-! ## The data symbols (R236, R238) -/

theorem dropLast_onAir (c : Config) (ks : List Kind) :
    (onAir c ks).dropLast = ks.dropLast.map (kindToSymbol c) := by
  obtain rfl | ⟨ks, k, rfl⟩ := ks.eq_nil_or_concat'
  · rfl
  · rw [onAir_concat, List.dropLast_concat, List.dropLast_concat]

theorem drop_transmission (c : Config) (b : Packet) :
    (transmission c b).drop 46 = onAir c (Spec.stream (wireBits b)) :=
  List.drop_left' (by simp)

/-- R96: a symbol of a duration the configuration holds. -/
theorem mkSymbol_toNat (l : Level) (d : Duration) :
    mkSymbol l d.toNat = { level := l, duration := d } := by
  rw [mkSymbol, BitVec.ofNat_toNat, BitVec.setWidth_eq]

/-- Settles O49: past the header the transmission is its data on the air, whose kinds before the
closing one become symbols one by one. -/
theorem sequenceData : Obligations.SequenceData := by
  intro c key
  obtain ⟨q, hgen⟩ := genSymbols_eq c key
  refine ⟨_, _, hgen, ?_⟩
  rw [drop_transmission, dropLast_onAir, wire_eq_wireBits]
  refine List.map_congr_left fun k _ => ?_
  cases k with
  | sl => exact mkSymbol_toNat false c.teShort
  | sh => exact mkSymbol_toNat true c.teShort
  | ll => exact mkSymbol_toNat false c.teLong
  | lh => exact mkSymbol_toNat true c.teLong

/-! ## The length (R240) -/

theorem onAir_length (c : Config) (ks : List Kind) : (onAir c ks).length = ks.length := by
  obtain rfl | ⟨ks, k, rfl⟩ := ks.eq_nil_or_concat'
  · rfl
  · simp [onAir_concat]

/-- R240: 42 symbols of preamble, 4 of sync header, and the kinds of 176 wire bits. -/
theorem transmission_length_eq (c : Config) (b : Packet) :
    (transmission c b).length = 223 + Spec.equalPairs (Spec.wire b) := by
  simp only [transmission, List.length_append, preamble_length, syncHeader_length, onAir_length,
    stream_length (wireBits_ne_nil b), wireBits_length, wire_eq_wireBits]
  omega

/-! ## The shortest and the longest sequence (R240) -/

theorem equalPairs_of_isChain {ws : List Bool} (h : ws.IsChain (· ≠ ·)) :
    Spec.equalPairs ws = 0 := by
  induction h with
  | nil | singleton => rfl
  | cons_cons hne _ ih => rw [equalPairs_cons_cons, ih, if_neg hne.symm]

theorem equalPairs_replicate (n : Nat) (w : Bool) :
    Spec.equalPairs (List.replicate (n + 1) w) = n := by
  induction n with
  | zero => rfl
  | succ n ih =>
    rw [List.replicate_succ, List.replicate_succ, equalPairs_cons_cons, ← List.replicate_succ, ih,
      if_pos rfl, Nat.add_comm]

/-- R62: in a packet of bytes `0x55` the bits of odd index are 1. -/
theorem bufBit_replicate_0x55 {k : Nat} (hk : k < 176) :
    bufBit (Vector.replicate 22 0x55#8) k = decide (k % 2 = 1) := by
  have hbyte : k / 8 < 22 := by omega
  have hbits : ∀ j < 8, (0x55#8).getLsbD (7 - j) = decide (j % 2 = 1) := by decide
  rw [bufBit, byte_getD _ _ hbyte, Vector.getElem_replicate, hbits _ (by omega),
    Nat.mod_mod_of_dvd k (by decide)]

/-- R240: the wire bits of bytes `0x55` alternate. -/
theorem equalPairs_wire_0x55 :
    Spec.equalPairs (Spec.wire (Vector.replicate 22 0x55#8)) = 0 := by
  rw [wire_eq_wireBits]
  refine equalPairs_of_isChain (List.isChain_iff_getElem.mpr fun i hi => ?_)
  rw [wireBits_length] at hi
  simp only [wireBits, List.getElem_map, List.getElem_range, bufBit_replicate_0x55 hi,
    bufBit_replicate_0x55 (Nat.lt_of_succ_lt hi), ne_eq, Bool.not_inj_iff, decide_eq_decide]
  omega

/-- R240: the wire bits of bytes `0x00` are all equal. -/
theorem equalPairs_wire_0x00 :
    Spec.equalPairs (Spec.wire (Vector.replicate 22 0x00#8)) = 175 := by
  have hwire : wireBits Packet.zero = List.replicate 176 true := by
    simp [wireBits, List.map_const']
  rw [wire_eq_wireBits]
  exact (congrArg _ hwire).trans (equalPairs_replicate 175 true)

/-- Settles O50: the length by the count of the stream (R159); bytes `0x55` alternate throughout,
and bytes `0x00` never do. -/
theorem sequenceLength : Obligations.SequenceLength := by
  refine ⟨fun c key => ?_, fun c => ?_⟩
  · obtain ⟨q, hgen⟩ := genSymbols_eq c key
    exact ⟨_, _, hgen, transmission_length_eq c key, transmission_length c key⟩
  · obtain ⟨q, hgen⟩ := genSymbols_eq c (Vector.replicate 22 0x55#8)
    obtain ⟨q', hgen'⟩ := genSymbols_eq c (Vector.replicate 22 0x00#8)
    exact ⟨_, _, _, _, hgen, by rw [transmission_length_eq, equalPairs_wire_0x55], hgen',
      by rw [transmission_length_eq, equalPairs_wire_0x00]⟩

end Sys2Proof.Machine
end

section
/-! PROOFS. The operations of the encoder (44_encoder.md): what ENC_LOAD, ENC_YIELD and ENC_STOP
answer and write (R232, R233, R244, R245, R247), and the repeat law (R246). -/

namespace Sys2Proof.Machine

/-! ## ENC_LOAD (R232, R233) -/

/-- R232: a wrong bit count, with or without a key. -/
theorem exec_encLoad_bitCount {bits : BitVec 16} {s : State} (hfault : s.enc.eFault = false)
    (hbits : bits ≠ 176#16) (kv rv : Bool) (rep : RepCount) (key : Packet) :
    exec (.encLoad kv rv bits rep key) s =
      .next (Spec.replies { s with enc := { s.enc with eActive := false } } [0x01#8]) := by
  rw [exec, execEncLoad, if_neg (by simp [hfault]), if_pos hbits]
  rfl

/-- R232: the right bit count without a key. -/
theorem exec_encLoad_no_key {s : State} (hfault : s.enc.eFault = false) (rv : Bool)
    (rep : RepCount) (key : Packet) :
    exec (.encLoad false rv 176#16 rep key) s =
      .next (Spec.replies { s with enc := { s.enc with eActive := false } } [0x02#8]) := by
  rw [exec, execEncLoad, if_neg (by simp [hfault]), if_neg (not_not.mpr rfl), if_pos rfl]
  rfl

/-- Settles O46, by the first check that fails. -/
theorem loadRejects : Obligations.LoadRejects := by
  intro kv rv bits rep key s hfault
  refine ⟨fun hbits => exec_encLoad_bitCount hfault hbits kv rv rep key, ?_⟩
  rintro rfl rfl
  exact exec_encLoad_no_key hfault rv rep key

/-- R231, R233: a load that passes the checks, with or without a repeat count of its own. -/
theorem exec_encLoad_accepts {s : State} {key : Packet} {m : MeState} {ys : List Symbol}
    (hfault : s.enc.eFault = false) (hgen : genSymbols s.cfg key = some (m, ys)) (rv : Bool)
    (rep : RepCount) :
    exec (.encLoad true rv 176#16 rep key) s =
      .next (Spec.replies
        { s with enc := loadedJob key (if rv then rep else s.cfg.repeatDefault) m ys s.enc }
        [0x00#8]) := by
  rw [exec, execEncLoad, if_neg (by simp [hfault]), if_neg (not_not.mpr rfl), if_neg nofun,
    acceptLoad_eq hgen]
  rfl

/-- R91: the frame of a load of 176 bits with a key. -/
theorem decode_encLoad_frame (rv : Bool) (rep : RepCount) (key : Packet) :
    decode (0x50#8 :: Spec.twoBits rv true :: 0x00#8 :: 0xB0#8 :: (bytes32 rep ++ key.toList)) =
      .ok (.encLoad true rv 176#16 rep key) := by
  have hflags : encode (.encLoad true rv 176#16 rep key) =
      0x50#8 :: Spec.twoBits rv true :: 0x00#8 :: 0xB0#8 :: (bytes32 rep ++ key.toList) := by
    cases rv <;> rfl
  rw [← hflags]
  exact decodeOfEncode _ rfl

/-- Settles O47: the generation always ends at the line coder's start (R239), so the load stores
it. -/
theorem loadAccepts : Obligations.LoadAccepts := by
  intro rv rep key s hfault
  obtain ⟨q, ys, hgen, -, hlen⟩ := genSymbols_some s.cfg key
  refine ⟨decode_encLoad_frame rv rep key, _, ys, hgen, by omega, ?_⟩
  rw [exec_encLoad_accepts hfault hgen, loadedJob, hfault]

/-! ## ENC_STOP (R247) -/

/-- R247: ENC_STOP answers `OK` and clears `E_ACTIVE`, whatever the state. -/
theorem exec_encStop (s : State) :
    exec .encStop s =
      .next (Spec.replies { s with enc := { s.enc with eActive := false } } [0x00#8]) := rfl

/-- Settles O55: the frame is the operation's encoding (O1). -/
theorem stopEffect : Obligations.StopEffect :=
  fun s => ⟨decodeOfEncode .encStop rfl, exec_encStop s⟩

/-! ## ENC_YIELD (R243 to R245) -/

theorem encIdle_iff (e : EncState) : encIdle e = true ↔ e.eRep = 0#32 ∨ e.eActive = false := by
  simp [encIdle]

/-- R244: the sentinel. -/
theorem exec_encYield_of_idle {s : State} (hfault : s.enc.eFault = false)
    (hidle : s.enc.eRep = 0#32 ∨ s.enc.eActive = false) :
    exec .encYield s =
      .next (Spec.replies { s with enc := { s.enc with eActive := false } }
        Spec.sentinelReply) := by
  rw [exec, execEncYield, if_neg (by simp [hfault]), if_pos ((encIdle_iff _).mpr hidle)]
  rfl

/-- Settles O52: the frame is the operation's encoding (O1). -/
theorem yieldSentinel : Obligations.YieldSentinel :=
  fun _ hfault hidle => ⟨decodeOfEncode .encYield rfl, exec_encYield_of_idle hfault hidle⟩

/-- R245: a running job with repetitions left answers the symbol at the cursor, which stands in the
sequence. -/
theorem exists_exec_encYield_symbol {s : State} (hjob : Spec.jobRunning s.enc)
    (hrep : s.enc.eRep ≠ 0#32) :
    ∃ y, s.enc.eSym[s.enc.eCur.toNat]? = some y ∧
      exec .encYield s =
        .next (Spec.replies { s with enc := advanceCursor s.enc } (Spec.symbolReply y)) := by
  obtain ⟨-, -, hlen, hcur⟩ := id hjob
  have hlt : s.enc.eCur.toNat < s.enc.eSym.length := hlen ▸ hcur
  have hy := List.getElem?_eq_getElem hlt
  exact ⟨_, hy, exec_encYield_of_jobRunning hjob hrep hy⟩

/-- R245: the cursor past a symbol, on numbers. -/
theorem advanceCursor_of_jobRunning {e : EncState} (hjob : Spec.jobRunning e)
    (hrep : e.eRep ≠ 0#32) :
    advanceCursor e =
      if e.eCur.toNat + 1 = e.eLen.toNat then
        { e with eCur := 0#9, eRep := BitVec.ofNat 32 (e.eRep.toNat - 1) }
      else { e with eCur := BitVec.ofNat 9 (e.eCur.toNat + 1) } := by
  obtain ⟨-, -, hlen, hcur⟩ := hjob
  split
  · have hdec : e.eRep - 1#32 = BitVec.ofNat 32 (e.eRep.toNat - 1) := by bv_omega
    rw [advanceCursor_last hlen (by omega), endOfRepetition, hdec]
  · have hinc : e.eCur + 1#9 = BitVec.ofNat 9 (e.eCur.toNat + 1) := by bv_omega
    rw [(advanceCursor_inside hlen (by omega)).1, hinc]

/-- Settles O53, by the symbol at the cursor and the cursor past it. -/
theorem yieldSymbol : Obligations.YieldSymbol := by
  intro s hjob hrep
  obtain ⟨y, hy, hexec⟩ := exists_exec_encYield_symbol hjob hrep
  exact ⟨y, hy, by rw [hexec, advanceCursor_of_jobRunning hjob hrep]⟩

/-! ## Sequences of operations with their answers (R73) -/

/-- R73: the operations `is`, run in order from `s`, all go on: they answer `rs` and leave `t`. -/
def Runs (is : List Instr) (s : State) (rs : List (List Byte)) (t : State) : Prop :=
  execAll is s = .next t ∧ responses is s = rs

theorem Runs.nil (s : State) : Runs [] s [] s := ⟨rfl, rfl⟩

theorem Runs.cons {i : Instr} {is : List Instr} {s t u : State} {rs : List (List Byte)}
    (hexec : exec i s = .next t) (h : Runs is t rs u) :
    Runs (i :: is) s (t.port.resp :: rs) u := by
  obtain ⟨hall, hresp⟩ := h
  simp only [Runs, execAll, responses, hexec, hall, hresp, and_self]

theorem Runs.exists_of_cons {i : Instr} {is : List Instr} {s u : State} {rs : List (List Byte)}
    (h : Runs (i :: is) s rs u) :
    ∃ t rs', exec i s = .next t ∧ Runs is t rs' u ∧ rs = t.port.resp :: rs' := by
  obtain ⟨hall, hresp⟩ := h
  cases hexec : exec i s with
  | next t =>
    simp only [execAll, responses, hexec] at hall hresp
    exact ⟨t, _, rfl, ⟨hall, rfl⟩, hresp.symm⟩
  | fault f => simp [execAll, hexec] at hall
  | refused r => simp [execAll, hexec] at hall

theorem Runs.append {is js : List Instr} {s t u : State} {rs qs : List (List Byte)}
    (h₁ : Runs is s rs t) (h₂ : Runs js t qs u) : Runs (is ++ js) s (rs ++ qs) u := by
  induction is generalizing s rs with
  | nil =>
    obtain ⟨hall, rfl⟩ := h₁
    cases hall
    exact h₂
  | cons i is ih =>
    obtain ⟨v, rs', hexec, hrest, rfl⟩ := h₁.exists_of_cons
    exact .cons hexec (ih hrest)

/-! ## The repeat law (R246) -/

theorem yieldN_add (m n : Nat) : yieldN (m + n) = yieldN m ++ yieldN n :=
  List.replicate_add m n _

/-- R245: pulling what is left of a repetition answers those symbols and ends the repetition. -/
theorem exists_runs_rest {ys : List Symbol} {s : State} (hjob : Spec.jobRunning s.enc)
    (hrep : s.enc.eRep ≠ 0#32) (hys : s.enc.eSym.drop s.enc.eCur.toNat = ys) :
    ∃ t, Runs (yieldN ys.length) s (ys.map Spec.symbolReply) t ∧
      t.enc = endOfRepetition s.enc := by
  induction ys generalizing s with
  | nil =>
    obtain ⟨-, -, hlen, hcur⟩ := hjob
    have hend := List.drop_eq_nil_iff.mp hys
    omega
  | cons y ys ih =>
    obtain ⟨y', hy, hexec⟩ := exists_exec_encYield_symbol hjob hrep
    obtain ⟨hfault, hactive, hlen, hcur⟩ := hjob
    obtain ⟨hlt, rfl⟩ := List.getElem?_eq_some_iff.mp hy
    rw [List.drop_eq_getElem_cons hlt, List.cons.injEq] at hys
    obtain ⟨rfl, hys⟩ := hys
    obtain hlast | hmore : s.enc.eCur.toNat + 1 = s.enc.eSym.length ∨
        s.enc.eCur.toNat + 1 < s.enc.eSym.length := by omega
    · obtain rfl : ys = [] := by rw [← hys, hlast, List.drop_length]
      exact ⟨_, .cons hexec (.nil _), advanceCursor_last hlen hlast⟩
    · obtain ⟨hadv, hcount⟩ := advanceCursor_inside hlen hmore
      have hinside : (s.enc.eCur + 1#9).toNat < s.enc.eLen.toNat := by omega
      rw [hadv] at hexec
      rw [← hcount] at hys
      obtain ⟨t, hrun, ht⟩ := ih
        (s := Spec.replies { s with enc := { s.enc with eCur := s.enc.eCur + 1#9 } } _)
        ⟨hfault, hactive, hlen, hinside⟩ hrep hys
      exact ⟨t, .cons hexec hrun, ht⟩

/-- R245: the job still runs at the end of a repetition, from the start of its sequence. -/
theorem jobRunning_endOfRepetition {e : EncState} (hjob : Spec.jobRunning e) :
    Spec.jobRunning (endOfRepetition e) := by
  obtain ⟨hfault, hactive, hlen, hcur⟩ := hjob
  exact ⟨hfault, hactive, hlen, Nat.zero_lt_of_lt hcur⟩

/-- R246: from the start of the sequence with `n` repetitions left, pulling `n` times its length
answers it `n` times and uses the repetitions up. -/
theorem exists_runs_repetitions {n : Nat} {s : State} (hjob : Spec.jobRunning s.enc)
    (hcur : s.enc.eCur = 0#9) (hn : s.enc.eRep.toNat = n) :
    ∃ t, Runs (yieldN (n * s.enc.eLen.toNat)) s
        (List.replicate n (s.enc.eSym.map Spec.symbolReply)).flatten t ∧
      t.enc.eFault = false ∧ t.enc.eRep = 0#32 := by
  induction n generalizing s with
  | zero =>
    obtain ⟨hfault, -⟩ := hjob
    rw [Nat.zero_mul, List.replicate_zero]
    exact ⟨s, .nil s, hfault, BitVec.eq_of_toNat_eq hn⟩
  | succ n ih =>
    have hrep : s.enc.eRep ≠ 0#32 := by bv_omega
    have hless : (s.enc.eRep - 1#32).toNat = n := by bv_omega
    have hwhole : s.enc.eSym.drop s.enc.eCur.toNat = s.enc.eSym := by rw [hcur]; rfl
    obtain ⟨t, hfirst, ht⟩ := exists_runs_rest hjob hrep hwhole
    obtain ⟨u, hrest, hu⟩ := ih (s := t) (ht ▸ jobRunning_endOfRepetition hjob)
      (by rw [ht]; rfl) (by rw [ht]; exact hless)
    obtain ⟨-, -, hlen, -⟩ := hjob
    rw [ht] at hrest
    refine ⟨u, ?_, hu⟩
    rw [Nat.succ_mul, Nat.add_comm, yieldN_add, List.replicate_succ, List.flatten_cons, hlen]
    exact hfirst.append (hlen ▸ hrest)

/-- R244, R247: with no repetition left every pull answers the sentinel, and every stop `OK`. -/
theorem responses_no_repetition {is : List Instr} {s : State} (hfault : s.enc.eFault = false)
    (hrep : s.enc.eRep = 0#32) (his : ∀ i ∈ is, i = .encYield ∨ i = .encStop) :
    responses is s =
      is.map fun i => if i = .encYield then Spec.sentinelReply else [0x00#8] := by
  induction is generalizing s with
  | nil => rfl
  | cons i is ih =>
    rw [List.forall_mem_cons] at his
    obtain ⟨rfl | rfl, his⟩ := his
    · simp only [responses, exec_encYield_of_idle hfault (.inl hrep), List.map_cons, if_true]
      exact congrArg _ (ih hfault hrep his)
    · simp only [responses, exec_encStop, List.map_cons, reduceCtorEq, if_false]
      exact congrArg _ (ih hfault hrep his)

/-- Settles O54: the repetitions by induction on their count, then sentinels by induction on the
operations that follow. -/
theorem repeatLaw : Obligations.RepeatLaw := by
  intro s after hjob hcur hafter
  obtain ⟨t, ⟨hall, hresp⟩, hfault, hrep⟩ := exists_runs_repetitions hjob hcur rfl
  exact ⟨t, hall, hresp, responses_no_repetition hfault hrep hafter⟩

end Sys2Proof.Machine
end

section
/-! PROOFS. The statements of the exceptions family (60_exceptions.md): when `pkt_ready` pulses
(R281), and the contract violation of the encoder, which no operation raises or clears (R276, R277). -/

namespace Sys2Proof.Machine

/-! ## The notification (R281) -/

/-- R181, R182: the edge that pulses `pkt_ready` brings bit 176, in `FD`, with a receiver
registered. -/
theorem FeedEffect.last_bit_of_ready {x y : DecState} (h : FeedEffect x y true) :
    x.cbEn = true ∧ x.dstate = .fd ∧ x.dcnt.toNat = 175 ∧ y.dcnt.toNat = 176 := by
  cases h with
  | completes b m hx hn hcb hm =>
    have hcnt : (withBit b m x).dcnt.toNat = 176 := by rw [withBit_dcnt_toNat (by omega), hn]
    exact ⟨hcb, hx, hn, hcnt⟩

/-- R182, R281: an edge that takes the decoder to `CPL` pulses `pkt_ready`. -/
theorem FeedEffect.ready_of_enters_cpl {x y : DecState} {ready : Bool} (h : FeedEffect x y ready)
    (hx : x.dstate ≠ .cpl) (hy : y.dstate = .cpl) : ready = true := by
  cases h with
  | keeps | takesHalf | takesBit => exact absurd hy hx
  | clears | findsData => cases hy
  | advances d _ hd => exact absurd hy hd.2
  | completes => rfl

section
variable {s t : State} {i : Instr}

/-- R281: the operation that pulses `pkt_ready` is a DEC_FEED. -/
theorem Effect.decFeed_of_pktReady (h : Effect s i t) (hready : t.port.pktReady = true) :
    (∃ l d, i = .decFeed l d) ∧ FeedEffect s.dec t.dec true := by
  cases h with
  | feeds l d x ready hx =>
    obtain rfl : ready = true := hready
    exact ⟨⟨l, d, rfl⟩, hx⟩
  | _ => cases hready

/-- R281: the operation that takes the decoder to `CPL` pulses `pkt_ready`. -/
theorem Effect.pktReady_of_enters_cpl (h : Effect s i t) (hs : s.dec.dstate ≠ .cpl)
    (ht : t.dec.dstate = .cpl) : t.port.pktReady = true := by
  cases h with
  | feeds l d x ready hx => exact hx.ready_of_enters_cpl hs ht
  | resetsDecoder => cases ht
  | _ => exact absurd ht hs

end

/-- Settles O13: among the effects of the operations, the edge that completes the packet is the one
that pulses and the one that enters `CPL`. -/
theorem pulseExactlyAtCompletion : Obligations.PulseExactlyAtCompletion := by
  intro i s t hexec
  have heff := exec_effect hexec
  refine ⟨⟨fun hready => ?_, fun ⟨_, hs, ht⟩ => heff.pktReady_of_enters_cpl hs ht⟩,
    fun hready => (heff.decFeed_of_pktReady hready).2.last_bit_of_ready⟩
  obtain ⟨hfeed, hedge⟩ := heff.decFeed_of_pktReady hready
  obtain ⟨-, hfd, -⟩ := hedge.last_bit_of_ready
  exact ⟨hfeed, by simp [hfd], hedge.dstate_of_ready⟩

/-! ## The contract violation (R276, R277) -/

/-- R156, R276, R277: no operation sets `E_FAULT`, and none clears it. -/
theorem Effect.eFault_eq {s t : State} {i : Instr} (h : Effect s i t) :
    t.enc.eFault = s.enc.eFault := by
  cases h with
  | yieldsSymbol => exact advanceCursor_eFault s.enc
  | _ => rfl

/-- Settles O57: the generation of a load always succeeds (`genSymbols_some`), so no effect of an
operation raises the violation. -/
theorem contractViolationUnreachable : Obligations.ContractViolationUnreachable :=
  fun _ _ _ hfault hexec => (exec_effect hexec).eFault_eq.trans hfault

/-- R277: a faulted encoder refuses ENC_LOAD before any other check. -/
theorem exec_encLoad_of_fault {s : State} (hfault : s.enc.eFault = true) (kv rv : Bool)
    (bits : BitVec 16) (rep : RepCount) (key : Packet) :
    exec (.encLoad kv rv bits rep key) s = .next (Spec.replies s [0x05#8]) := by
  rw [exec, execEncLoad, if_pos hfault]
  rfl

/-- R277: a faulted encoder refuses ENC_YIELD. -/
theorem exec_encYield_of_fault {s : State} (hfault : s.enc.eFault = true) :
    exec .encYield s = .next (Spec.replies s [0x05#8]) := by
  rw [exec, execEncYield, if_pos hfault]
  rfl

/-- R60, R277: an operation outside the encoder does the same with any other encoder in the
block. -/
theorem exec_with_enc {i : Instr} {s t : State} (hi : side i ≠ .encoder) (h : exec i s = .next t)
    (e : EncState) : exec i { s with enc := e } = .next { t with enc := e } := by
  cases hside : side i with
  | pure =>
    obtain ⟨st, payload, hexec⟩ := exec_pure hside s.cfg
    rw [hexec s rfl] at h
    cases h
    exact hexec _ rfl
  | decoder =>
    obtain ⟨x, p, resp, ready, hexec⟩ := exec_decoder hside h
    rw [hexec s rfl rfl rfl] at h
    cases h
    exact hexec _ rfl rfl rfl
  | encoder => exact absurd hside hi

/-- R277: an operation outside the encoder does with a faulted one what it does with the fault
clear. -/
theorem exec_of_exec_fault_clear {i : Instr} {s t : State} (hfault : s.enc.eFault = true)
    (hi : side i ≠ .encoder)
    (h : exec i { s with enc := { s.enc with eFault := false } } = .next t) :
    exec i s = .next { t with enc := { t.enc with eFault := true } } := by
  have henc : t.enc = { s.enc with eFault := false } :=
    (exec_effect h).enc_eq_or.resolve_right hi
  have hset : { t.enc with eFault := true } = s.enc := by rw [henc, ← hfault]
  rw [hset]
  exact exec_with_enc hi h s.enc

/-- Settles O56: the two refusals, ENC_STOP as in any state (R247), and what the other operations
read and write. -/
theorem encoderFaultSticky : Obligations.EncoderFaultSticky := fun s hfault =>
  ⟨exec_encLoad_of_fault hfault, exec_encYield_of_fault hfault, exec_encStop s,
    fun _ _ hi hexec => exec_of_exec_fault_clear hfault hi hexec,
    fun _ _ hexec => (exec_effect hexec).eFault_eq.trans hfault⟩

end Sys2Proof.Machine
end

section
/-! PROOFS. The statements of the reset and hazards family (70_reset_and_hazards.md): the values
hardware reset writes (R300), and the on-air length of one repetition (R322). -/

namespace Sys2Proof.Machine

/-! ## Hardware reset (R300) -/

/-- Settles O14: the reset values of the decoder, the parser and the encoder, as each of the three
states them. -/
theorem resetValues : Obligations.ResetValues := by
  intro c
  simp only [State.resetWith, DecState.reset, PrsState.reset, EncState.reset, Packet.zero,
    and_self]

/-! ## The time a sequence is on the air (R322) -/

/-- R322: the sum of the durations of a sequence, in microseconds. -/
def airTime (ys : List Symbol) : Nat := (ys.map fun y => y.duration.toNat).sum

@[simp] theorem airTime_nil : airTime [] = 0 := rfl

@[simp] theorem airTime_cons (y : Symbol) (ys : List Symbol) :
    airTime (y :: ys) = y.duration.toNat + airTime ys := List.sum_cons

@[simp] theorem airTime_append (xs ys : List Symbol) :
    airTime (xs ++ ys) = airTime xs + airTime ys := by
  rw [airTime, List.map_append, List.sum_append, airTime, airTime]

theorem airTime_flatten_replicate (n : Nat) (ys : List Symbol) :
    airTime (List.replicate n ys).flatten = n * airTime ys := by
  induction n with
  | zero => rw [List.replicate_zero, List.flatten_nil, airTime_nil, Nat.zero_mul]
  | succ n ih =>
    rw [List.replicate_succ, List.flatten_cons, airTime_append, ih, Nat.succ_mul, Nat.add_comm]

section
variable {c : Config}

theorem short_duration_toNat (hc : c.WellFormed) (l : Level) :
    (mkSymbol l (nShort c)).duration.toNat = nShort c := by
  have hnominals := nominals_of_wellFormed hc
  exact mkSymbol_duration_toNat hc l (by omega)

theorem long_duration_toNat (hc : c.WellFormed) (l : Level) :
    (mkSymbol l (nLong c)).duration.toNat = 2 * nShort c := by
  have hnominals := nominals_of_wellFormed hc
  rw [mkSymbol_duration_toNat hc l (by omega), nLong_of_wellFormed hc]

/-- R234, R322: the preamble is 40 shorts, the first low and the mark. -/
theorem airTime_preamble (hc : c.WellFormed) :
    airTime (preamble c) = nFirstLow c + 40 * nShort c + nMark c := by
  have hnominals := nominals_of_wellFormed hc
  rw [preamble_eq, airTime_cons, airTime_append, airTime_flatten_replicate]
  simp only [airTime_cons, airTime_nil, short_duration_toNat hc,
    mkSymbol_duration_toNat hc _ (Nat.le_refl (nMark c)),
    mkSymbol_duration_toNat hc _ (show nFirstLow c ≤ nMark c by omega)]
  omega

/-- R235, R322: the sync header is four longs. -/
theorem airTime_syncHeader (hc : c.WellFormed) : airTime (syncHeader c) = 8 * nShort c := by
  simp only [syncHeader, airTime_cons, airTime_nil, long_duration_toNat hc]
  omega

/-- R159, R322: each wire bit that follows another adds two shorts or one long, and the closing
symbol lasts `N_TERM`. -/
theorem airTime_onAir_streamRest (hc : c.WellFormed) (p : Bool) (ws : List Bool) :
    airTime (onAir c (Spec.streamRest p ws)) = 2 * ws.length * nShort c + nTerm c := by
  induction ws generalizing p with
  | nil =>
    have hnominals := nominals_of_wellFormed hc
    rw [streamRest_nil, onAir, airTime_cons, mkSymbol_duration_toNat hc _ (by omega)]
    simp
  | cons w ws ih =>
    rw [List.length_cons, Nat.mul_succ, Nat.add_mul]
    obtain rfl | rfl := Bool.eq_or_eq_not w p
    · rw [streamRest_cons_self, onAir_cons _ _ (List.cons_ne_nil _ _),
        onAir_cons _ _ (streamRest_ne_nil _ _), airTime_cons, airTime_cons, ih,
        kindToSymbol_shortKind, kindToSymbol_shortKind, short_duration_toNat hc,
        short_duration_toNat hc]
      omega
    · rw [streamRest_cons_not, onAir_cons _ _ (streamRest_ne_nil _ _), airTime_cons, ih,
        kindToSymbol_longKind, long_duration_toNat hc]
      omega

/-- R322: the 176 wire bits of any packet are on the air equally long. -/
theorem airTime_onAir_wireBits (hc : c.WellFormed) (b : Packet) :
    airTime (onAir c (Spec.stream (wireBits b))) = 351 * nShort c + nTerm c := by
  rw [wireBits_eq_cons, stream_cons, onAir_cons _ _ (streamRest_ne_nil _ _), airTime_cons,
    airTime_onAir_streamRest hc, kindToSymbol_shortKind, short_duration_toNat hc,
    List.length_map, List.length_range]
  omega

/-- R322: the time a transmission is on the air, for any packet. -/
theorem airTime_transmission (hc : c.WellFormed) (b : Packet) :
    airTime (transmission c b) = 411 * nShort c + 2 * (nShort c / 2) := by
  obtain ⟨-, hfirstLow, hmark, hterm⟩ := nominals_of_wellFormed hc
  rw [transmission, airTime_append, airTime_append, airTime_preamble hc, airTime_syncHeader hc,
    airTime_onAir_wireBits hc]
  omega

end

/-- Settles O51: the generated sequence is the transmission, whose data is on the air equally long
for every packet, by induction on its wire bits (R159). -/
theorem onAirLength : Obligations.OnAirLength := by
  intro c key hc
  obtain ⟨q, hgen⟩ := genSymbols_eq c key
  exact ⟨_, _, hgen, airTime_transmission hc key⟩

end Sys2Proof.Machine
end
